-- ==== Sys2Proof/Word.lean ====
section
/-! DEFINITION. The words of the PDM infrared block: durations, the value type, the command word, and the two agents' names. -/

namespace Sys2Proof

/-- A duration is a natural number of time-units (`00_scope.md` R7, decision D4). -/
abbrev Duration := Nat

/-- The value of a `SEND` and of a decoded frame: `W_ENC` = `W_VAL` = 32 bits (`00_scope.md` R5). -/
abbrev Value := BitVec 32

/-- A command word as it is written to `CMD`: `8 + W_ENC` = 40 bits (`30_encoding.md` R75). -/
abbrev CmdWord := BitVec 40

/-- The width-less representation of a protocol tag (`10_state.md` R25, the value itself is open, decision D18). -/
abbrev Tag := Nat

/-- A byte of the payload contract (`30_encoding.md` R78). -/
abbrev Byte := BitVec 8

/-- The two agents of the block (`00_scope.md` R6). -/
inductive Agent where
  | enc
  | dec
  deriving DecidableEq, Repr, Inhabited

end Sys2Proof
end

