-- ==== Sys2Proof/Config.lean ====
section
/-! DEFINITION. The parameters of the block (`00_scope.md` R5): the fixed ones in one record with the spec's values, the open
ones as uninterpreted constants without a body, and the instances of the open matcher the spec names. -/

namespace Sys2Proof

/-- The fixed parameters of `00_scope.md` R5, in its order. -/
structure Config where
  hMark : Duration
  hSpace : Duration
  bitMark : Duration
  oneSpace : Duration
  zeroSpace : Duration
  carrierKhz : Nat
  lengths : List Nat
  decBits : Nat
  wVal : Nat
  wEnc : Nat
  overhead : Nat
  deriving DecidableEq, Repr

/-- The values the spec gives the fixed parameters (R5). UNVERIFIED, unsafe if a literal is wrong: the source is the only
document and its literals are unaudited (decision D3, log 15). -/
def Config.hw : Config where
  hMark := 4400
  hSpace := 4400
  bitMark := 550
  oneSpace := 1600
  zeroSpace := 550
  carrierKhz := 38
  lengths := [56, 72, 80]
  decBits := 32
  wVal := 32
  wEnc := 32
  overhead := 3

/-- `MATCH`, the open tolerance matcher (measured, expected): uninterpreted (R30, D16, U6; log 4). -/
opaque Config.matcher : Duration → Duration → Bool

/-- `PROTO_TAG`, the open protocol tag: uninterpreted (R25, D18, U17; log 5). -/
opaque Config.protoTag : Tag

/-- `TIME_UNIT`, the physical length of a time-unit: uninterpreted, read by no rule (R5, D2, U16). -/
opaque Config.timeUnit : Nat

/-- How far `W_DUR` exceeds its lower bound 13: uninterpreted (R5, D4). -/
opaque Config.wDurAbove : Nat

/-- `W_DUR`, the width of a duration in a hardware image: open, at least 13 (R5, D4). -/
def Config.wDur : Nat := 13 + Config.wDurAbove

/-- How far `RAWBUF_MAX` exceeds its lower bound 164: uninterpreted (R5, D22). -/
opaque Config.rawbufAbove : Nat

/-- `RAWBUF_MAX`, the capacity of the capture buffer: open, at least 164; no rule of the block reads it (R58, D22). -/
def Config.rawbufMax : Nat := 164 + Config.rawbufAbove

/-- `ID_BYTES`, the five constant identifier bytes of the 9-byte payload: uninterpreted (R79, D31, U10). -/
opaque Config.idByte : Fin 5 → Byte

/-- `PURE_BIT`, the position of `pureFilterFlag` in payload byte 7: uninterpreted (R82, D31, U10). -/
opaque Config.pureBit : Fin 8

/-- `CHECKSUM`, the function giving payload byte 8 from bytes 0 to 7: uninterpreted (R83, D32, U2). -/
opaque Config.checksum : List Byte → Byte

/-- The free choice of the agent that moves next when both are busy, the n-th time it is asked: any interleaving of the two
agents' micro-operations is a run (`60_exceptions.md` R156, D28; log 3). -/
opaque Config.nextAgent : Nat → Agent

/-- Which instance of the open parameter `MATCH` a machine is built with (R30: "fixed for the whole of one model instance";
log 4). `hardware` is the hardware's own, uninterpreted; the others are the test instances of decision D16 and of
`95_test_vectors.md`. -/
inductive Matcher where
  /-- the hardware's matcher: `Config.matcher`, of which nothing is known -/
  | hardware
  /-- `MATCH_EXACT` -/
  | exact
  /-- `MATCH_PCT(p)` -/
  | pct (p : Nat)
  /-- `ALL` -/
  | all
  /-- `NONE` -/
  | none
  deriving DecidableEq, Repr

end Sys2Proof
end

