-- ==== Sys2Proof/Syntax.lean ====
section
/-! DEFINITION. The instructions: one constructor for each row of the opcode table, the two commands and the fifteen
micro-operations (`30_encoding.md` R74, R76, R77). -/

namespace Sys2Proof

/-- The three rejection kinds, the whole error taxonomy of the block (`60_exceptions.md` R140). -/
inductive RejectKind where
  | headerMismatch
  | unsupportedLength
  | bitMismatch
  deriving DecidableEq, Repr

/-- The operations of the block. `SEND` and `E.START` carry the operands of the issued command (R90, R91); `D.REJECT` carries
the rejection kind (R118); every other operand is a register or a buffer element. -/
inductive Instr where
  /-- `SEND nbits, value` (R90) -/
  | send (nbits : Nat) (value : Value)
  /-- `DECODE` (R110) -/
  | decode
  /-- `E.START` (R91) -/
  | eStart (nbits : Nat) (value : Value)
  /-- `E.HMARK` (R92) -/
  | eHmark
  /-- `E.HSPACE` (R93) -/
  | eHspace
  /-- `E.BMARK` (R94) -/
  | eBmark
  /-- `E.BSPACE` (R95) -/
  | eBspace
  /-- `E.TERM` (R96) -/
  | eTerm
  /-- `E.OFF` (R97) -/
  | eOff
  /-- `D.START` (R111) -/
  | dStart
  /-- `D.HMARK` (R112) -/
  | dHmark
  /-- `D.LEN` (R113) -/
  | dLen
  /-- `D.HSPACE` (R114) -/
  | dHspace
  /-- `D.BMARK` (R115) -/
  | dBmark
  /-- `D.BSPACE` (R116) -/
  | dBspace
  /-- `D.ACCEPT` (R117) -/
  | dAccept
  /-- `D.REJECT(kind)` (R118) -/
  | dReject (kind : RejectKind)
  deriving DecidableEq, Repr

/-- The name of an operation in the notation of R86 and in the opcode table. -/
def Instr.mnemonic : Instr → String
  | .send _ _ => "SEND"
  | .decode => "DECODE"
  | .eStart _ _ => "E.START"
  | .eHmark => "E.HMARK"
  | .eHspace => "E.HSPACE"
  | .eBmark => "E.BMARK"
  | .eBspace => "E.BSPACE"
  | .eTerm => "E.TERM"
  | .eOff => "E.OFF"
  | .dStart => "D.START"
  | .dHmark => "D.HMARK"
  | .dLen => "D.LEN"
  | .dHspace => "D.HSPACE"
  | .dBmark => "D.BMARK"
  | .dBspace => "D.BSPACE"
  | .dAccept => "D.ACCEPT"
  | .dReject _ => "D.REJECT"

/-- The written form of an operation (R86): a command as `SEND <nbits>, <value>` or `DECODE` with decimal operands, a
micro-operation by its name. -/
def Instr.written : Instr → String
  | .send n v => "SEND " ++ toString n ++ ", " ++ toString v.toNat
  | i => i.mnemonic

/-- The agent that runs an operation (`00_scope.md` R6). -/
def Instr.agent : Instr → Agent
  | .send _ _ | .eStart _ _ | .eHmark | .eHspace | .eBmark | .eBspace | .eTerm | .eOff => .enc
  | .decode | .dStart | .dHmark | .dLen | .dHspace | .dBmark | .dBspace | .dAccept | .dReject _ => .dec

end Sys2Proof
end

