-- ==== Sys2Proof/Machine/State.lean ====
section
/-! DEFINITION. The state of the block (`10_state.md` R10), its reset value (R39), and the reasons a step can stop. -/

namespace Sys2Proof.Machine

/-- The kind of a drive event: mark (carrier on) or space (carrier off) (`00_scope.md` R8, `20_memory.md` R44). -/
inductive Kind where
  | mark
  | space
  deriving DecidableEq, Repr

/-- The phases of ENC, `E_PHASE` (R14). -/
inductive EPhase where
  | idle
  | hmark
  | hspace
  | bmark
  | bspace
  | term
  | off
  deriving DecidableEq, Repr

/-- The phases of DEC, `D_PHASE` (R21). -/
inductive DPhase where
  | idle
  | hmark
  | len
  | hspace
  | bmark
  | bspace
  deriving DecidableEq, Repr

/-- `R_STATUS` (R22): value 3 is never taken. -/
inductive Status where
  | none
  | accepted
  | rejected
  deriving DecidableEq, Repr

/-- The state of the block and of what it reads at its boundary. The last four fields are the model's own. -/
structure State where
  /-- `E_PHASE`, the program counter of ENC (R14) -/
  ePhase : EPhase
  /-- `E_NBITS` (R12) -/
  eNbits : Nat
  /-- `E_VALUE` (R11) -/
  eValue : Value
  /-- `E_IDX` (R13) -/
  eIdx : Nat
  /-- `CARRIER` (R15) -/
  carrier : Bool
  /-- `D_PHASE`, the program counter of DEC (R21) -/
  dPhase : DPhase
  /-- `D_OFFSET`, the cursor into the capture buffer (R17) -/
  dOffset : Nat
  /-- `D_NBITS`, the apparent bit count (R18) -/
  dNbits : Nat
  /-- `D_DATA`, the accumulator (R19) -/
  dData : Value
  /-- `D_I`, the number of bit positions already decoded (R20) -/
  dI : Nat
  /-- `R_STATUS` (R22) -/
  rStatus : Status
  /-- `R_ERR` (R26) -/
  rErr : BitVec 2
  /-- `R_BITCOUNT`; `none` is the spec's own "no value" (R23) -/
  rBitCount : Option Nat
  /-- `R_VALUE`; `none` is the spec's own "no value" (R24) -/
  rValue : Option Value
  /-- `R_PROTO`; `none` is the spec's own "no value" (R25) -/
  rProto : Option Tag
  /-- `TX`, the drive events issued since reset, oldest first (R32) -/
  tx : List (Kind × Duration)
  /-- `RAW`; its length is `RAWLEN` (R31) -/
  raw : List Duration
  /-- The words the host has written to `CMD` and no step has carried out, oldest first: the inputs of the steps that start
  them (R10, R28). The model's own field, no register of the block (DESIGN CHOICE, safe: log 2). -/
  cmd : List CmdWord
  /-- The agent that moves next when both are busy. The model's own field (DESIGN CHOICE, safe: log 3). -/
  turn : Agent
  /-- How often the free choice `Config.nextAgent` has been asked. The model's own field (log 3). -/
  tick : Nat
  /-- The instance of the parameter `MATCH` this machine is built with; no step changes it (R30, log 4). -/
  matcher : Matcher
  deriving DecidableEq, Repr

/-- Reasons the machine stops with a fault. No run from reset reaches one of the first three. -/
inductive Fault where
  /-- Raised by `D.HMARK`, `D.HSPACE`, `D.BMARK`, `D.BSPACE`: `MemRead(i)` with `i ≥ RAWLEN`, which R41 leaves undefined. Safe. -/
  | captureRange
  /-- Raised by `D.LEN` on `RAWLEN < 3`: the subtraction is performed only when `RAWLEN ≥ 3` (R120). Safe. -/
  | lengthUnderflow
  /-- Raised by `E.BSPACE`: `E_VALUE[E_IDX]` with `E_IDX ≥ W_ENC`, a bit the value does not have (R7, R13). Safe. -/
  | bitIndexRange
  /-- Raised by the host's read of `R_BITCOUNT`, `R_VALUE` or `R_PROTO` while it holds no value (R23 to R25, U12). Safe. -/
  | noValue
  deriving DecidableEq, Repr

/-- Reasons the model gives an input no meaning. -/
inductive Refusal where
  /-- Raised by exec's arm of an instruction that has no meaning yet. Safe. -/
  | notModelled (mnemonic : String)
  /-- Raised by `SEND` and `E.START`: `nbits` is 0 or above `W_ENC`, undefined behaviour of the source (R100, U1). Safe. -/
  | nbitsOutOfRange
  /-- Raised by `SEND` issued while ENC is busy, an outcome the source does not give (R100, U3). Safe. -/
  | encBusy
  /-- Raised by `DECODE` issued while DEC is busy, an outcome the source does not give (R110, U3). Safe. -/
  | decBusy
  /-- Raised by the capture unit's port: the buffer rewritten while DEC is busy (R56, R171, U4). Safe. -/
  | captureBusy
  deriving DecidableEq, Repr

/-- The machine right after reset (R39, R165, R166). The registers R39 leaves unspecified, and `RAW`, hold 0 or are empty
(DESIGN CHOICE, unsafe: logs 6 and 7); the model's own fields hold the values logs 2, 3 and 4 name. -/
def State.reset : State where
  ePhase := .idle
  eNbits := 0
  eValue := 0#32
  eIdx := 0
  carrier := false
  dPhase := .idle
  dOffset := 0
  dNbits := 0
  dData := 0#32
  dI := 0
  rStatus := .none
  rErr := 0#2
  rBitCount := none
  rValue := none
  rProto := none
  tx := []
  raw := []
  cmd := []
  turn := .enc
  tick := 0
  matcher := .hardware

/-- What one step or one meaning answers. -/
abbrev Result := Host.Outcome State Fault Refusal

end Sys2Proof.Machine
end

