-- ==== Sys2Proof/Machine/Flags.lean ====
section
/-! DEFINITION. Flags and status (`10_state.md` section 5): the busy flags, the carrier flag, and the codes of `R_STATUS` and
`R_ERR`. The block has no arithmetic flags (R35). -/

namespace Sys2Proof.Machine

/-- `E_BUSY = (E_PHASE ≠ E_IDLE)` (R29). -/
def eBusy (s : State) : Bool := !decide (s.ePhase = .idle)

/-- `D_BUSY = (D_PHASE ≠ D_IDLE)` (R29). -/
def dBusy (s : State) : Bool := !decide (s.dPhase = .idle)

/-- `CARRIER` after a drive event: off after a space (R15, R45); on after a mark until the next event, since the interval of
the next event starts when this one has ended (R55; DEDUCED, unsafe: log 8). -/
def carrierAfter : Kind → Bool
  | .mark => true
  | .space => false

/-- The 2-bit value of `R_STATUS` (R22). -/
def Status.code : Status → BitVec 2
  | .none => 0#2
  | .accepted => 1#2
  | .rejected => 2#2

/-- The code of a rejection kind in `R_ERR` (`60_exceptions.md` R144). -/
def errCode : RejectKind → BitVec 2
  | .headerMismatch => 1#2
  | .unsupportedLength => 2#2
  | .bitMismatch => 3#2

/-- The rejection kind an `R_ERR` value shows; 0 is none (R26, R144). -/
def errKind (c : BitVec 2) : Option RejectKind :=
  match c.toNat with
  | 1 => some .headerMismatch
  | 2 => some .unsupportedLength
  | 3 => some .bitMismatch
  | _ => none

end Sys2Proof.Machine
end

