-- ==== Sys2Proof/WellFormed.lean ====
section
/-! DEFINITION. Which terms of Instr the encodings can carry. -/

namespace Sys2Proof

/-- The range `SEND` asks of `nbits` (`40_encoder.md` R100): at least 1 and at most `W_ENC`. -/
def nbitsLegal (n : Nat) : Bool := decide (1 ≤ n) && decide (n ≤ Config.hw.wEnc)

/-- A `SEND` is a legal word when `nbits` fits its 7-bit field; a count that breaks the precondition of R100 is still a legal
word (R75). `E.START` is selected only by a `SEND` that meets R100 (R91). Every other term is well-formed. -/
def Instr.wellFormed : Instr → Bool
  | .send n _ => decide (n < 128)
  | .decode => true
  | .eStart n _ => nbitsLegal n
  | .eHmark => true
  | .eHspace => true
  | .eBmark => true
  | .eBspace => true
  | .eTerm => true
  | .eOff => true
  | .dStart => true
  | .dHmark => true
  | .dLen => true
  | .dHspace => true
  | .dBmark => true
  | .dBspace => true
  | .dAccept => true
  | .dReject _ => true

end Sys2Proof
end

