-- ==== Sys2Proof/Machine/Operands.lean ====
section
/-! DEFINITION. Every operand form and every computation on operands the spec gives: the cursor into the capture buffer, the
bit select of the value, the matcher, the bit-to-duration mapper and its inverse, the length formula, the shift-accumulate. -/

namespace Sys2Proof.Machine

/-- `MemRead(i, 1)`: the duration at index `i`; defined when `i < RAWLEN`, and no side effect (`20_memory.md` R41, R51). -/
def memRead (s : State) (i : Nat) : Except Fault Duration :=
  match s.raw[i]? with
  | some d => .ok d
  | none => .error .captureRange

/-- The one addressing mode: the element under the cursor `D_OFFSET` (R41). The post-increment is `advanceCursor`, which a
rejected micro-operation does not reach (R118). -/
def cursorRead (s : State) : Except Fault Duration := memRead s s.dOffset

/-- `E_VALUE[E_IDX]`, one bit (`40_encoder.md` R95; `00_scope.md` R7). -/
def bitOperand (s : State) : Except Fault Bool :=
  if s.eIdx < Config.hw.wEnc then .ok (s.eValue.getLsbD s.eIdx) else .error .bitIndexRange

/-- An instance of `MATCH` (R30, decision D16, `95_test_vectors.md`): `100 * |m - e| ≤ p * e` for `MATCH_PCT(p)`. -/
def matchWith : Matcher → Duration → Duration → Bool
  | .hardware, m, e => Config.matcher m e
  | .exact, m, e => decide (m = e)
  | .pct p, m, e => decide (100 * ((m - e) + (e - m)) ≤ p * e)
  | .all, _, _ => true
  | .none, _, _ => false

/-- `SpaceOf(b)`, the bit-to-duration mapper (`30_encoding.md` R62). -/
def spaceOf (b : Bool) : Duration := if b then Config.hw.oneSpace else Config.hw.zeroSpace

/-- The duration-to-bit classifier under a matcher: `ONE_SPACE` is tested first (`30_encoding.md` R69; D13, log 22). -/
def classify (mt : Duration → Duration → Bool) (d : Duration) : Option Bool :=
  if mt d Config.hw.oneSpace then some true
  else if mt d Config.hw.zeroSpace then some false
  else none

/-- `(RAWLEN - OVERHEAD) div 2`, the apparent bit count, rounded down (`41_decoder.md` R113, R120; D11, log 22). -/
def apparentCount (rawlen : Nat) : Nat := (rawlen - Config.hw.overhead) / 2

/-- `D_DATA <- (D_DATA << 1) | b`, the top bit discarded (`41_decoder.md` R116, R121). -/
def shiftIn (d : Value) (b : Bool) : Value := (d <<< 1) ||| (BitVec.ofBool b).setWidth 32

/-- An operand that may fault, and what is done with it. -/
def withOperand {α : Type} (x : Except Fault α) (k : α → Result) : Result :=
  match x with
  | .ok a => k a
  | .error f => .fault f

end Sys2Proof.Machine
end

