-- ==== Sys2Proof/Machine/Ops.lean ====
section
/-! DEFINITION. The named operations over the registers, the drive stream and the capture buffer, and the entry of a
rejection (the place of taking an exception). There is no return from a rejection and nothing is saved (R148). -/

namespace Sys2Proof.Machine

/-- `Match(m, e)` (`00_scope.md` R8): the matcher this machine is built with. -/
def State.matchDur (s : State) (m e : Duration) : Bool := matchWith s.matcher m e

/-- `Drive(k, d)`: append one event to `TX` (`20_memory.md` R44), with the carrier flag that goes with it (R15, R45). The
call is assumed to return (D34, U18; log 9). -/
def drive (k : Kind) (d : Duration) (s : State) : State :=
  { s with tx := s.tx ++ [(k, d)], carrier := carrierAfter k }

/-- The post-increment of the cursor `D_OFFSET` (R41, R17). -/
def advanceCursor (s : State) : State := { s with dOffset := s.dOffset + 1 }

/-- `D.REJECT(kind)`, that is `raise Reject(kind)` (`41_decoder.md` R118, `60_exceptions.md` R146): the ONE entry of a
rejection. The results lose their values, the kind and the status are recorded, DEC is idle; nothing is saved. What a micro-operation
wrote before its failing check stays written (R146), which is `D_NBITS` in `D.LEN` and nothing else (R113; log 14). -/
def reject (kind : RejectKind) (s : State) : State :=
  { s with
    rBitCount := none
    rValue := none
    rProto := none
    rErr := errCode kind
    rStatus := .rejected
    dPhase := .idle }

/-- `D.ACCEPT` (`41_decoder.md` R117): the accepted result is written and DEC is idle. -/
def accept (s : State) : State :=
  { s with
    rBitCount := some s.dNbits
    rValue := some s.dData
    rProto := some Config.protoTag
    rErr := 0#2
    rStatus := .accepted
    dPhase := .idle }

/-- The latching of `E.START` (`40_encoder.md` R91), for operands that meet R100. -/
def latchSend (n : Nat) (v : Value) (s : State) : State :=
  { s with eNbits := n, eValue := v, eIdx := n - 1, ePhase := .hmark }

/-- `E.START` on any operands: outside R100 the source gives no behaviour and the model refuses (U1; log 11). -/
def startSend (n : Nat) (v : Value) (s : State) : Result :=
  if nbitsLegal n then .next (latchSend n v s) else .refused .nbitsOutOfRange

/-- The clearing of `D.START` (`41_decoder.md` R111). -/
def startDecode (s : State) : State :=
  { s with
    rStatus := .none
    rErr := 0#2
    rBitCount := none
    rValue := none
    rProto := none
    dData := 0#32
    dI := 0
    dOffset := 1
    dPhase := .hmark }

/-- A check of one buffer element, shared by `D.HMARK`, `D.HSPACE` and `D.BMARK` (R112, R114, R115): the element under the
cursor is matched against `expected`; on success the cursor advances and the phase is `next`, else `kind` is raised. -/
def checkElement (expected : Duration) (kind : RejectKind) (next : DPhase) (s : State) : Result :=
  withOperand (cursorRead s) fun m =>
    if s.matchDur m expected then .next { advanceCursor s with dPhase := next } else .next (reject kind s)

/-- What `D.BSPACE` does with a classified bit (R116): accumulate, advance the cursor, count, and accept at `DEC_BITS`. -/
def acceptBit (b : Bool) (s : State) : State :=
  if s.dI + 1 = Config.hw.decBits then accept { advanceCursor s with dData := shiftIn s.dData b, dI := s.dI + 1 }
  else { advanceCursor s with dData := shiftIn s.dData b, dI := s.dI + 1, dPhase := .bmark }

end Sys2Proof.Machine
end

