-- ==== Sys2Proof/Machine/Command.lean ====
section
/-! DEFINITION. The two commands (`30_encoding.md` R74). The issue of a command is carried out by the first micro-operation
of its agent, in the same step (`60_exceptions.md` R160); the agent then runs by itself (log 1). -/

namespace Sys2Proof.Machine

/-- `SEND nbits, value` (`40_encoder.md` R90, R100): to an idle ENC it starts the frame by `E.START`; to a busy ENC it is
refused, whatever its operands (U3; log 12). UNVERIFIED: the send path rests on the document alone (R105, R174; log 31). -/
def execSend (n : Nat) (v : Value) (s : State) : Result :=
  if eBusy s then .refused .encBusy else startSend n v s

/-- `DECODE` (`41_decoder.md` R110): to an idle DEC it starts the pass by `D.START`; to a busy DEC it is refused (U3). -/
def execDecode (s : State) : Result :=
  if dBusy s then .refused .decBusy else .next (startDecode s)

end Sys2Proof.Machine
end

