-- ==== Sys2Proof/Machine/Decoder.lean ====
section
/-! DEFINITION. The micro-operations of DEC (`41_decoder.md` R111 to R118). Each does its pseudocode; the step runs it only in
the phase that selects it (log 19). -/

namespace Sys2Proof.Machine

/-- `D.START` (R111): clear the results, the accumulator and the count, cursor to 1 (skip `RAW[0]`), to `D_HMARK`. -/
def execDStart (s : State) : Result := .next (startDecode s)

/-- `D.HMARK` (R112): the boundary check comes first, so a short buffer is not read; then the header mark. -/
def execDHmark (s : State) : Result :=
  if s.raw.length < Config.hw.overhead then .next (reject .headerMismatch s)
  else checkElement Config.hw.hMark .headerMismatch .len s

/-- `D.LEN` (R113): the apparent bit count is written, then held against the whitelist, so a rejected `D.LEN` holds the new
count: "everything before the failing check has happened" (R146; log 14). It is computed only when `RAWLEN ≥ 3` (R120; log
10). -/
def execDLen (s : State) : Result :=
  if s.raw.length < Config.hw.overhead then .fault .lengthUnderflow
  else if apparentCount s.raw.length ∈ Config.hw.lengths then
    .next { s with dNbits := apparentCount s.raw.length, dPhase := .hspace }
  else .next (reject .unsupportedLength { s with dNbits := apparentCount s.raw.length })

/-- `D.HSPACE` (R114): the header space. -/
def execDHspace (s : State) : Result := checkElement Config.hw.hSpace .headerMismatch .bmark s

/-- `D.BMARK` (R115): the mark of bit position `D_I`. -/
def execDBmark (s : State) : Result := checkElement Config.hw.bitMark .bitMismatch .bspace s

/-- `D.BSPACE` (R116): classify the space, accumulate, and at the 32nd position accept in the same step. -/
def execDBspace (s : State) : Result :=
  withOperand (cursorRead s) fun d =>
    match classify s.matchDur d with
    | some b => .next (acceptBit b s)
    | none => .next (reject .bitMismatch s)

/-- `D.ACCEPT` (R117): the tail of the 32nd `D.BSPACE`. -/
def execDAccept (s : State) : Result := .next (accept s)

/-- `D.REJECT(kind)` (R118): the tail of a micro-operation whose check failed. -/
def execDReject (kind : RejectKind) (s : State) : Result := .next (reject kind s)

end Sys2Proof.Machine
end

