-- ==== Sys2Proof/Machine/Encoder.lean ====
section
/-! DEFINITION. The micro-operations of ENC (`40_encoder.md` R91 to R97). Each does its pseudocode; the step runs it only in
the phase that selects it (log 19). UNVERIFIED: these rules are the contract of a send path that the source never validated on
hardware; they rest on the document alone, with no run behind them, and are assumed of the physical protocol (R105, R174, U15;
log 31). -/

namespace Sys2Proof.Machine

/-- `E.START` (R91): latch the operands, `E_IDX <- nbits - 1`, to `E_HMARK`. -/
def execEStart (n : Nat) (v : Value) (s : State) : Result := startSend n v s

/-- `E.HMARK` (R92): `Drive(M, H_MARK)`, to `E_HSPACE`. -/
def execEHmark (s : State) : Result := .next { drive .mark Config.hw.hMark s with ePhase := .hspace }

/-- `E.HSPACE` (R93): `Drive(S, H_SPACE)`, to `E_BMARK`. -/
def execEHspace (s : State) : Result := .next { drive .space Config.hw.hSpace s with ePhase := .bmark }

/-- `E.BMARK` (R94): `Drive(M, BIT_MARK)`, to `E_BSPACE`. -/
def execEBmark (s : State) : Result := .next { drive .mark Config.hw.bitMark s with ePhase := .bspace }

/-- `E.BSPACE` (R95): the bit is read before the index steps; index 0 stays 0 and leaves for `E_TERM`. -/
def execEBspace (s : State) : Result :=
  withOperand (bitOperand s) fun b =>
    if s.eIdx = 0 then .next { drive .space (spaceOf b) s with ePhase := .term }
    else .next { drive .space (spaceOf b) s with eIdx := s.eIdx - 1, ePhase := .bmark }

/-- `E.TERM` (R96): `Drive(M, BIT_MARK)`, the terminator, to `E_OFF`. -/
def execETerm (s : State) : Result := .next { drive .mark Config.hw.bitMark s with ePhase := .off }

/-- `E.OFF` (R97, C1, D9): `Drive(S, 0)`, the explicit idle without a duration, to `E_IDLE`. -/
def execEOff (s : State) : Result := .next { drive .space 0 s with ePhase := .idle }

end Sys2Proof.Machine
end

