-- ==== Sys2Proof/Machine/Dispatch.lean ====
section
/-! DEFINITION. The dispatch: one arm for each constructor of Instr, each one direct call of that instruction's meaning. -/

namespace Sys2Proof.Machine

def exec (i : Instr) (s : State) : Host.Outcome State Fault Refusal :=
  match i with
  | .send n v => Sys2Proof.Machine.execSend n v s
  | .decode => Sys2Proof.Machine.execDecode s
  | .eStart n v => Sys2Proof.Machine.execEStart n v s
  | .eHmark => Sys2Proof.Machine.execEHmark s
  | .eHspace => Sys2Proof.Machine.execEHspace s
  | .eBmark => Sys2Proof.Machine.execEBmark s
  | .eBspace => Sys2Proof.Machine.execEBspace s
  | .eTerm => Sys2Proof.Machine.execETerm s
  | .eOff => Sys2Proof.Machine.execEOff s
  | .dStart => Sys2Proof.Machine.execDStart s
  | .dHmark => Sys2Proof.Machine.execDHmark s
  | .dLen => Sys2Proof.Machine.execDLen s
  | .dHspace => Sys2Proof.Machine.execDHspace s
  | .dBmark => Sys2Proof.Machine.execDBmark s
  | .dBspace => Sys2Proof.Machine.execDBspace s
  | .dAccept => Sys2Proof.Machine.execDAccept s
  | .dReject kind => Sys2Proof.Machine.execDReject kind s

end Sys2Proof.Machine
end

