-- ==== Sys2Proof/Decode.lean ====
section
/-! DEFINITION. The encodings of `30_encoding.md` R75 to R77 and of the opcode table: what selects an operation, the decoder
(total, each refusal named) and the encoder. -/

namespace Sys2Proof

/-- What selects an operation, by the opcode table's column "format". -/
inductive Select where
  /-- `CMD40`: a command word written to `CMD` (R75) -/
  | cmd (w : CmdWord)
  /-- `ENC.phase`: the 3-bit value of `E_PHASE` and the command word issued to ENC, if there is one (R76) -/
  | enc (phase : BitVec 3) (issued : Option CmdWord)
  /-- `DEC.phase`: the 3-bit value of `D_PHASE` and the command word issued to DEC, if there is one (R77) -/
  | dec (phase : BitVec 3) (issued : Option CmdWord)
  /-- `DEC.tail`: the phase whose micro-operation reaches the tail, and whether its check passed (R77) -/
  | tail (phase : BitVec 3) (passed : Bool)
  deriving DecidableEq, Repr

/-- Why the decoder refuses a selector. -/
inductive DecodeError where
  /-- a phase value that is never taken: 7 of `E_PHASE` (R14), 6 and 7 of `D_PHASE` (R21) -/
  | reservedPhase
  /-- ENC is idle and no `SEND` is issued: `E.START` is not selected (R76) -/
  | noSendIssued
  /-- DEC is idle and no `DECODE` is issued: `D.START` is not selected (R77) -/
  | noDecodeIssued
  /-- the issued `SEND` breaks R100, so it does not select `E.START` (R91) -/
  | nbitsOutOfRange
  /-- the phase has no such tail (R77) -/
  | noSuchTail
  deriving DecidableEq, Repr

/-- Field `op` of a command word, bit 39: 1 is `SEND` (R75). -/
def cmdOp (w : CmdWord) : Bool := w.getLsbD 39

/-- Field `nbits` of a command word, bits 38 to 32 (R75). -/
def cmdNbits (w : CmdWord) : Nat := (w.extractLsb' 32 7).toNat

/-- Field `value` of a command word, bits 31 to 0 (R75). -/
def cmdValue (w : CmdWord) : Value := w.extractLsb' 0 32

/-- A command word: every 40-bit word is one of the two commands (R75). -/
def decodeCmd (w : CmdWord) : Instr :=
  if cmdOp w then .send (cmdNbits w) (cmdValue w) else .decode

/-- `E.START` from the command word issued to an idle ENC (R76, R91). -/
def decodeEStart : Option CmdWord → Except DecodeError Instr
  | some w =>
    if cmdOp w then
      if nbitsLegal (cmdNbits w) then .ok (.eStart (cmdNbits w) (cmdValue w)) else .error .nbitsOutOfRange
    else .error .noSendIssued
  | none => .error .noSendIssued

/-- `D.START` from the command word issued to an idle DEC (R77, R111). -/
def decodeDStart : Option CmdWord → Except DecodeError Instr
  | some w => if cmdOp w then .error .noDecodeIssued else .ok .dStart
  | none => .error .noDecodeIssued

/-- The kind of rejection the micro-operation of a phase raises (`60_exceptions.md` R144). -/
def rejectKindOf (phase : BitVec 3) : Option RejectKind :=
  match phase.toNat with
  | 1 => some .headerMismatch
  | 2 => some .unsupportedLength
  | 3 => some .headerMismatch
  | 4 => some .bitMismatch
  | 5 => some .bitMismatch
  | _ => none

/-- The decoder: total, and it rejects by name. -/
def decode : Select → Except DecodeError Instr
  | .cmd w => .ok (decodeCmd w)
  | .enc phase issued =>
    match phase.toNat with
    | 0 => decodeEStart issued
    | 1 => .ok .eHmark
    | 2 => .ok .eHspace
    | 3 => .ok .eBmark
    | 4 => .ok .eBspace
    | 5 => .ok .eTerm
    | 6 => .ok .eOff
    | _ => .error .reservedPhase
  | .dec phase issued =>
    match phase.toNat with
    | 0 => decodeDStart issued
    | 1 => .ok .dHmark
    | 2 => .ok .dLen
    | 3 => .ok .dHspace
    | 4 => .ok .dBmark
    | 5 => .ok .dBspace
    | _ => .error .reservedPhase
  | .tail phase true => if phase = 5#3 then .ok .dAccept else .error .noSuchTail
  | .tail phase false =>
    match rejectKindOf phase with
    | some kind => .ok (.dReject kind)
    | none => .error .noSuchTail

/-- The word of `SEND`: op = 1, then 7 bits of `nbits`, then the value (R75). -/
def sendWord (n : Nat) (v : Value) : CmdWord := (1#1 ++ BitVec.ofNat 7 n ++ v).cast (by decide)

/-- The word of `DECODE`: op = 0; the 39 ignored bits are written as zeros (R75). -/
def decodeWord : CmdWord := 0#40

/-- The phase a rejection of a kind is encoded with: the first that raises it (R144; R118 gives the kind, not the phase). -/
def tailPhaseOf : RejectKind → BitVec 3
  | .headerMismatch => 1#3
  | .unsupportedLength => 2#3
  | .bitMismatch => 4#3

/-- The encoder, from the same tables: what selects the operation. -/
def encode : Instr → Select
  | .send n v => .cmd (sendWord n v)
  | .decode => .cmd decodeWord
  | .eStart n v => .enc 0#3 (some (sendWord n v))
  | .eHmark => .enc 1#3 none
  | .eHspace => .enc 2#3 none
  | .eBmark => .enc 3#3 none
  | .eBspace => .enc 4#3 none
  | .eTerm => .enc 5#3 none
  | .eOff => .enc 6#3 none
  | .dStart => .dec 0#3 (some decodeWord)
  | .dHmark => .dec 1#3 none
  | .dLen => .dec 2#3 none
  | .dHspace => .dec 3#3 none
  | .dBmark => .dec 4#3 none
  | .dBspace => .dec 5#3 none
  | .dAccept => .tail 5#3 true
  | .dReject kind => .tail (tailPhaseOf kind) false

/-- The agent a selector addresses: a command word by its op bit, every other selector by its format. -/
def Select.agent : Select → Agent
  | .cmd w => if cmdOp w then .enc else .dec
  | .enc _ _ => .enc
  | .dec _ _ => .dec
  | .tail _ _ => .dec

/-- The selector an opcode-table word stands for. A 40-bit word is a command word. A phase word has 3 bits, one byte as the
table counts, and does not name its agent: 1 to 6 are read as `E_PHASE` values; 0 selects `D.START`, since the operand word
of zeros that stands above it is the command word of `DECODE` (DESIGN CHOICE, safe: log 17). -/
def tableSelect (nbits w : Nat) : Option Select :=
  if nbits = 40 then some (.cmd (BitVec.ofNat 40 w))
  else if nbits = 8 ∨ nbits = 3 then
    if w = 0 then some (.dec 0#3 (some 0#40))
    else if w ≤ 7 then some (.enc (BitVec.ofNat 3 w) none)
    else none
  else none

/-- The instruction this decoder reads from a word of the opcode table. -/
def decodeTableWord (nbits w : Nat) : Option Instr :=
  match tableSelect nbits w with
  | some sel =>
    match decode sel with
    | .ok i => some i
    | .error _ => none
  | none => none

end Sys2Proof
end

