-- ==== Sys2Proof/Machine/Fetch.lean ====
section
/-! DEFINITION. What the next step runs: the command just written to `CMD`, else the micro-operation the phase of the agent
that moves selects (`30_encoding.md` R76, R77), else nothing. -/

namespace Sys2Proof.Machine

/-- The 3-bit value of `E_PHASE` (R14). -/
def EPhase.code : EPhase → BitVec 3
  | .idle => 0#3
  | .hmark => 1#3
  | .hspace => 2#3
  | .bmark => 3#3
  | .bspace => 4#3
  | .term => 5#3
  | .off => 6#3

/-- The phase a 3-bit value of `E_PHASE` names; 7 is never taken (R14). -/
def EPhase.ofCode (c : BitVec 3) : Option EPhase :=
  match c.toNat with
  | 0 => some .idle
  | 1 => some .hmark
  | 2 => some .hspace
  | 3 => some .bmark
  | 4 => some .bspace
  | 5 => some .term
  | 6 => some .off
  | _ => none

/-- The 3-bit value of `D_PHASE` (R21). -/
def DPhase.code : DPhase → BitVec 3
  | .idle => 0#3
  | .hmark => 1#3
  | .len => 2#3
  | .hspace => 3#3
  | .bmark => 4#3
  | .bspace => 5#3

/-- The phase a 3-bit value of `D_PHASE` names; 6 and 7 are never taken (R21). -/
def DPhase.ofCode (c : BitVec 3) : Option DPhase :=
  match c.toNat with
  | 0 => some .idle
  | 1 => some .hmark
  | 2 => some .len
  | 3 => some .hspace
  | 4 => some .bmark
  | 5 => some .bspace
  | _ => none

/-- The agent that moves: the busy one, and when both are busy the one whose turn it is (D28; log 3). -/
def mover (s : State) : Option Agent :=
  match eBusy s, dBusy s with
  | true, true => some s.turn
  | true, false => some .enc
  | false, true => some .dec
  | false, false => none

/-- What selects the next operation. A word written to `CMD` is taken first, the oldest before the others: the
host chooses the moment by writing it then (log 2). -/
def select (s : State) : Option Select :=
  match s.cmd with
  | w :: _ => some (.cmd w)
  | [] =>
    match mover s with
    | some .enc => some (.enc s.ePhase.code none)
    | some .dec => some (.dec s.dPhase.code none)
    | none => none

/-- The next operation, decoded; `none` when both agents wait in their idle phase for a command (R166). -/
def fetch (s : State) : Option Instr :=
  match select s with
  | some sel =>
    match decode sel with
    | .ok i => some i
    | .error _ => none
  | none => none

/-- What a step does around the operation it runs: the oldest word written to `CMD` is consumed (R28) and the agent that moves next, should
both be busy, is chosen afresh (log 3). -/
def advance (s : State) : State :=
  { s with cmd := s.cmd.tail, turn := Config.nextAgent s.tick, tick := s.tick + 1 }

/-- `s` with the operation of an opcode-table word put where the next step fetches (log 17): a command word in `CMD`, ahead
of any other; a phase word of ENC in `E_PHASE`, with no word in `CMD` and the turn ENC's; the word 0 of DEC as a `DECODE` issued
to an idle DEC. -/
def placeWord (s : State) (nbits w : Nat) : State :=
  match tableSelect nbits w with
  | some (.cmd cw) => { s with cmd := cw :: s.cmd }
  | some (.enc phase _) =>
    match EPhase.ofCode phase with
    | some p => { s with cmd := [], ePhase := p, turn := .enc }
    | none => s
  | some (.dec _ issued) => { s with cmd := issued.toList ++ s.cmd, dPhase := .idle }
  | _ => s

end Sys2Proof.Machine
end

