-- ==== Sys2Proof/Machine/Step.lean ====
section
/-! DEFINITION. One step: the fetched operation is run on the advanced state; with nothing to run the block waits. -/

namespace Sys2Proof.Machine

/-- One step of the block: one operation of one agent, atomic (D1; log 1). With no command issued and both agents idle the
block waits for a command and nothing changes (R166, R159). -/
def step (s : State) : Host.Outcome State Fault Refusal :=
  match fetch s with
  | some i => exec i (advance s)
  | none => .next s

/-- The state with the operation of an opcode-table word placed where the next step fetches it (log 17). -/
def State.withFetchWord (s : State) (nbits w : Nat) : State := placeWord s nbits w

end Sys2Proof.Machine
end

