-- ==== Sys2Proof/Machine/Payload.lean ====
section
/-! DEFINITION. The 9-byte payload contract (`30_encoding.md` R78 to R85): a fixed byte layout the block carries and never
reads. The 7- and 10-byte forms have no layout in the source and no accessor here (U11). -/

namespace Sys2Proof.Machine

/-- The nine payload bytes (R78). -/
structure Payload where
  b0 : Byte
  b1 : Byte
  b2 : Byte
  b3 : Byte
  b4 : Byte
  b5 : Byte
  b6 : Byte
  b7 : Byte
  b8 : Byte
  deriving DecidableEq, Repr

/-- `temperature`, bits 3:0 of byte 5 (R80). -/
def Payload.temperature (p : Payload) : BitVec 4 := p.b5.extractLsb' 0 4

/-- `celsius = temperature + 17` (R80). For the field values 14 and 15, which "have no meaning in the source", the formula is
used as it stands and gives 31 and 32 (DESIGN CHOICE, unsafe: log 29); `fieldsLegal` tells the legal values. -/
def Payload.celsius (p : Payload) : Nat := p.temperature.toNat + 17

/-- `fanSpeed`, bits 2:0 of byte 6 (R81). -/
def Payload.fanSpeed (p : Payload) : BitVec 3 := p.b6.extractLsb' 0 3

/-- `mode`, bits 4:3 of byte 6 (R81). -/
def Payload.mode (p : Payload) : BitVec 2 := p.b6.extractLsb' 3 2

/-- `power`, bits 7:5 of byte 6 (R81). -/
def Payload.power (p : Payload) : BitVec 3 := p.b6.extractLsb' 5 3

/-- `pureFilterFlag`, bit `PURE_BIT` of byte 7 (R82; the position is open). -/
def Payload.pureFilter (p : Payload) : Bool := p.b7.getLsbD Config.pureBit.val

/-- The operating modes of R81. -/
inductive OpMode where
  | auto
  | cool
  | dry
  | heat
  deriving DecidableEq, Repr

/-- The 2-bit value of a mode (R81). -/
def OpMode.code : OpMode → BitVec 2
  | .auto => 0#2
  | .cool => 1#2
  | .dry => 2#2
  | .heat => 3#2

/-- Byte 6 from its three fields (R81). -/
def packByte6 (fan : BitVec 3) (mode : BitVec 2) (power : BitVec 3) : Byte :=
  (power ++ mode ++ fan).cast (by decide)

/-- The identifier bytes are the protocol's constants (R79; the values are open). -/
def Payload.idOk (p : Payload) : Bool :=
  decide (p.b0 = Config.idByte 0) && decide (p.b1 = Config.idByte 1) && decide (p.b2 = Config.idByte 2)
    && decide (p.b3 = Config.idByte 3) && decide (p.b4 = Config.idByte 4)

/-- The fields hold values the source gives a meaning: temperature 0 to 13, fan 0 to 6, power 0 or 7 (R80, R81). -/
def Payload.fieldsLegal (p : Payload) : Bool :=
  decide (p.temperature.toNat ≤ 13) && decide (p.fanSpeed.toNat ≤ 6) && (decide (p.power = 0#3) || decide (p.power = 7#3))

/-- Byte 8 is the checksum of bytes 0 to 7: pluggable, the algorithm unknown; neither agent evaluates it (R83, R124). -/
def Payload.checksumOk (p : Payload) : Bool :=
  decide (p.b8 = Config.checksum [p.b0, p.b1, p.b2, p.b3, p.b4, p.b5, p.b6, p.b7])

/-- The 72-bit number of a payload, byte 0 first and each byte most-significant bit first (R49, R84; D26, log 20). -/
def Payload.frame (p : Payload) : BitVec 72 :=
  (p.b0 ++ p.b1 ++ p.b2 ++ p.b3 ++ p.b4 ++ p.b5 ++ p.b6 ++ p.b7 ++ p.b8).cast (by decide)

end Sys2Proof.Machine
end

