-- ==== Sys2Proof/Machine/Frame.lean ====
section
/-! DEFINITION. The block as functions: the line code and the frame (`30_encoding.md` R60 to R65), `Encode`
(`40_encoder.md` R99), `PulseSeq` and `Capture` (`20_memory.md` R46, R47), `Decode` (`41_decoder.md` R119), the map of the
capture buffer (R43). Widths are free, so the widened instance of R104 can be spoken of; it is not this hardware (log 23). -/

namespace Sys2Proof.Machine

/-- The four symbols of the line code (R60). -/
inductive Symbol where
  | hdr
  | bit (b : Bool)
  | term
  deriving DecidableEq, Repr

/-- The intervals of a symbol (R60 to R63). -/
def Symbol.intervals : Symbol → List (Kind × Duration)
  | .hdr => [(.mark, Config.hw.hMark), (.space, Config.hw.hSpace)]
  | .bit b => [(.mark, Config.hw.bitMark), (.space, spaceOf b)]
  | .term => [(.mark, Config.hw.bitMark)]

/-- The symbols of a frame of bits, the first sent first (R64). -/
def frameSymbols (bits : List Bool) : List Symbol := .hdr :: bits.map .bit ++ [.term]

/-- The bits of a frame: the low `n` bits of the value, most-significant first (R67, R48). Above the width they are zeros
(DESIGN CHOICE: log 30). -/
def frameBits {w : Nat} (n : Nat) (v : BitVec w) : List Bool :=
  (List.range n).map fun k => v.getLsbD (n - 1 - k)

/-- `Encode(nbits, value)`, the drive events of one `SEND` (R99): the symbols' intervals and the final `Drive(S, 0)`. R99 gives
it for `1 ≤ nbits ≤ W_ENC` only; as a total function it is extended to `n = 0`, a bare header and terminator, and to `n` above
the width, where the bits the value does not have are zeros (DESIGN CHOICE: log 30). The machine never uses the extension,
since such a `SEND` is refused (U1; log 11). UNVERIFIED: the timing contract rests on the document alone, with no run behind it
(R105, R174, U15; log 31). -/
def encodeFrame {w : Nat} (n : Nat) (v : BitVec w) : List (Kind × Duration) :=
  [(.mark, Config.hw.hMark), (.space, Config.hw.hSpace)]
    ++ (List.range n).flatMap (fun k => [(.mark, Config.hw.bitMark), (.space, spaceOf (v.getLsbD (n - 1 - k)))])
    ++ [(.mark, Config.hw.bitMark), (.space, 0)]

/-- `PulseSeq(T)`: the durations in order, a final `(S, 0)` dropped if there is one (R46, C1). -/
def pulseSeq (t : List (Kind × Duration)) : List Duration :=
  (if t.getLast? = some (.space, 0) then t.dropLast else t).map Prod.snd

/-- `Capture(g, T)`: a verbatim capture with a leading gap (R47). -/
def capture (g : Duration) (t : List (Kind × Duration)) : List Duration := g :: pulseSeq t

/-- The time a drive stream segment occupies the medium, in time-units (R102, R184). -/
def mediumTime (t : List (Kind × Duration)) : Nat := (t.map Prod.snd).sum

/-- The result of a `DECODE` (R87). -/
inductive DecodeResult where
  | accepted (bitCount : Nat) (value : Value) (tag : Tag)
  | rejected (kind : RejectKind)
  deriving DecidableEq, Repr

/-- The classification `c[k]` of bit position `k`: its mark at `3 + 2k` must match, its space at `4 + 2k` is classified
(R119, R43). -/
def classifyPos (mt : Duration → Duration → Bool) (raw : List Duration) (k : Nat) : Option Bool :=
  if mt (raw.getD (3 + 2 * k) 0) Config.hw.bitMark then classify mt (raw.getD (4 + 2 * k) 0) else none

/-- The classifications of bit positions `0 .. j-1`, none if one of them fails (R119). -/
def classifyAll (mt : Duration → Duration → Bool) (raw : List Duration) : Nat → Option (List Bool)
  | 0 => some []
  | j + 1 =>
    match classifyAll mt raw j, classifyPos mt raw j with
    | some bs, some b => some (bs ++ [b])
    | _, _ => none

/-- The number spelt by bits, the first the most significant: for 32 bits, `sum of c[k] * 2^(31-k)` (R119, R121). -/
def bitsToNat (bits : List Bool) : Nat := bits.foldl (fun acc b => 2 * acc + b.toNat) 0

/-- `Decode(raw)` under a matcher (R119). The indices read are in range whenever they are read (R51), so the default of a
short buffer is never seen. -/
def decodeFrame (mt : Duration → Duration → Bool) (raw : List Duration) : DecodeResult :=
  if raw.length < Config.hw.overhead then .rejected .headerMismatch
  else if !mt (raw.getD 1 0) Config.hw.hMark then .rejected .headerMismatch
  else if apparentCount raw.length ∉ Config.hw.lengths then .rejected .unsupportedLength
  else if !mt (raw.getD 2 0) Config.hw.hSpace then .rejected .headerMismatch
  else
    match classifyAll mt raw Config.hw.decBits with
    | some bits => .accepted (apparentCount raw.length) (BitVec.ofNat 32 (bitsToNat bits)) Config.protoTag
    | none => .rejected .bitMismatch

/-- What an element of the capture buffer is to DEC (R43). -/
inductive Role where
  | gap
  | headerMark
  | headerSpace
  | bitMark (k : Nat)
  | bitSpace (k : Nat)
  | terminator
  | nothing
  deriving DecidableEq, Repr

/-- The role of index `i` in the buffer of a frame of `n` bits (R43). -/
def roleOf (n i : Nat) : Role :=
  if i = 0 then .gap
  else if i = 1 then .headerMark
  else if i = 2 then .headerSpace
  else if i < 3 + 2 * n then
    if i % 2 = 1 then .bitMark ((i - 3) / 2) else .bitSpace ((i - 4) / 2)
  else if i = 3 + 2 * n then .terminator
  else .nothing

/-- The durations DEC holds an element against (R43, R72); none at an index it never reads (R73). -/
def expectedAt (n i : Nat) : List Duration :=
  match roleOf n i with
  | .headerMark => [Config.hw.hMark]
  | .headerSpace => [Config.hw.hSpace]
  | .bitMark k => if k < Config.hw.decBits then [Config.hw.bitMark] else []
  | .bitSpace k => if k < Config.hw.decBits then [Config.hw.oneSpace, Config.hw.zeroSpace] else []
  | .gap | .terminator | .nothing => []

/-- A matcher is reflexive on the constants (D16). -/
def ReflexiveOnConstants (mt : Duration → Duration → Bool) : Prop :=
  mt Config.hw.hMark Config.hw.hMark = true ∧ mt Config.hw.hSpace Config.hw.hSpace = true ∧
    mt Config.hw.bitMark Config.hw.bitMark = true ∧ mt Config.hw.oneSpace Config.hw.oneSpace = true ∧
    mt Config.hw.zeroSpace Config.hw.zeroSpace = true

/-- A matcher separates the spaces: a 0 space does not match `ONE_SPACE` (D16). -/
def SeparatesSpaces (mt : Duration → Duration → Bool) : Prop :=
  mt Config.hw.zeroSpace Config.hw.oneSpace = false

end Sys2Proof.Machine
end

