-- ==== Sys2Proof/Machine/HostPort.lean ====
section
/-! DEFINITION. The boundary (`60_exceptions.md` R154, R160; `70_reset_and_hazards.md` sections 1 and 5): what the host and
the capture unit do to the block between its steps, what the host reads, and the reset input. -/

namespace Sys2Proof.Machine

/-- The host writes a command word to `CMD`, which is the issue of a command (R28, R75). Two commands may be issued together
(P5 of `95_test_vectors.md`, R156): each word is carried out by a step of its own, in the order of the writes (log 28); a
second command to a busy agent is refused by the step that would start it (U3; log 12). -/
def hostIssue (w : CmdWord) (s : State) : State := { s with cmd := s.cmd ++ [w] }

/-- The capture unit fills the buffer (R31, R168); it may not while DEC runs (R56, R171, U4; log 13). A fill while the word of a
`DECODE` is written and not yet carried out is taken, and the pass reads the new buffer: R6 and R168 make it the host's duty
to fill the buffer before the issue and give this case no outcome (DESIGN CHOICE, unsafe: log 13). -/
def captureFill (raw : List Duration) (s : State) : Result :=
  if dBusy s then .refused .captureBusy else .next { s with raw := raw }

/-- The reset input (R165): every register at its reset value, a running command abandoned, `TX` empty. The buffer is not the
block's, and the matcher and the free choices are not touched (R39; log 21). -/
def inputReset (s : State) : State :=
  { State.reset with raw := s.raw, turn := s.turn, tick := s.tick, matcher := s.matcher }

/-- The host's read of `R_STATUS`, its 2-bit value (R22, R160). -/
def readStatus (s : State) : BitVec 2 := s.rStatus.code

/-- The host's read of `R_ERR` (R26, R160). -/
def readErr (s : State) : BitVec 2 := s.rErr

/-- The host's read of a result register: a register without a value faults (R23 to R25, R167, U12; log 27). -/
def readResult {α : Type} (r : Option α) : Except Fault α :=
  match r with
  | some a => .ok a
  | none => .error .noValue

/-- The host's read of `R_BITCOUNT` (R23). -/
def readBitCount (s : State) : Except Fault Nat := readResult s.rBitCount

/-- The host's read of `R_VALUE` (R24). -/
def readValue (s : State) : Except Fault Value := readResult s.rValue

/-- The host's read of `R_PROTO` (R25). -/
def readProto (s : State) : Except Fault Tag := readResult s.rProto

/-- The host's read of configuration register `n` (R27): hardwired, the same in every state. -/
def readCfg (n : Fin 10) : Nat :=
  match n.val with
  | 0 => Config.hw.hMark
  | 1 => Config.hw.hSpace
  | 2 => Config.hw.bitMark
  | 3 => Config.hw.oneSpace
  | 4 => Config.hw.zeroSpace
  | 5 => Config.hw.carrierKhz
  | 6 => Config.hw.lengths.getD 0 0
  | 7 => Config.hw.lengths.getD 1 0
  | 8 => Config.hw.lengths.getD 2 0
  | _ => Config.hw.decBits

/-- The width of configuration register `n` (R27). -/
def cfgWidth (n : Fin 10) : Nat :=
  match n.val with
  | 0 | 1 | 2 | 3 | 4 => Config.wDur
  | 5 => 6
  | 6 | 7 | 8 => 7
  | _ => 6

/-- The result a host that reads the registers at once finds (R87): `none` while `R_STATUS` is `NONE` or the registers do not
form a result. -/
def resultOf (s : State) : Option DecodeResult :=
  match s.rStatus with
  | .none => none
  | .accepted =>
    match s.rBitCount, s.rValue, s.rProto with
    | some n, some v, some t => some (.accepted n v t)
    | _, _, _ => none
  | .rejected => (errKind s.rErr).map .rejected

end Sys2Proof.Machine
end

