-- ==== Sys2Proof/Safety.lean ====
section
/-! DEFINITION. What counts as a good state and a good run, in the terms the statements use: the invariant of the two
sequencers, the end of a run, what is observed. -/

namespace Sys2Proof.Machine

/-- `k` steps of the machine, stopping at the first fault or refusal. -/
def runSteps : Nat → State → Result
  | 0, s => .next s
  | k + 1, s =>
    match step s with
    | .next t => runSteps k t
    | .fault f => .fault f
    | .refused r => .refused r

/-- The end of a run: every issued command has been taken and has completed (`70_reset_and_hazards.md` R181). -/
abbrev endOfRun (s : State) : Prop := s.cmd = [] ∧ s.ePhase = .idle ∧ s.dPhase = .idle

/-- How many drive events of its frame ENC has issued (`40_encoder.md` R103): 0 when idle. -/
def eventsDone (s : State) : Nat :=
  match s.ePhase with
  | .idle => 0
  | .hmark => 0
  | .hspace => 1
  | .bmark => 2 + 2 * (s.eNbits - 1 - s.eIdx)
  | .bspace => 3 + 2 * (s.eNbits - 1 - s.eIdx)
  | .term => 2 + 2 * s.eNbits
  | .off => 3 + 2 * s.eNbits

/-- ENC's registers agree with its phase (R12, R13, R103), the carrier flag shows the last event (R15, log 8), and `TX` ends
with exactly the part of `Encode(E_NBITS, E_VALUE)` that is done (R54, R99). -/
abbrev EncInv (s : State) : Prop :=
  (s.ePhase ≠ .idle → nbitsLegal s.eNbits = true ∧ s.eIdx < s.eNbits) ∧
  (s.ePhase = .hmark ∨ s.ePhase = .hspace → s.eIdx = s.eNbits - 1) ∧
  (s.ePhase = .term ∨ s.ePhase = .off → s.eIdx = 0) ∧
  (s.carrier = match s.tx.getLast? with | some (.mark, _) => true | _ => false) ∧
  (encodeFrame s.eNbits s.eValue).take (eventsDone s) <:+ s.tx

/-- DEC's registers agree with its phase (R17 to R20, R43, R51), every check it has passed holds, and the accumulator spells
the bits classified so far (R119, R121). -/
abbrev DecInv (s : State) : Prop :=
  (s.dPhase = .hmark → s.dOffset = 1 ∧ s.dI = 0 ∧ s.dData = 0#32) ∧
  (s.dPhase = .len → s.dOffset = 2 ∧ s.dI = 0 ∧ s.dData = 0#32) ∧
  (s.dPhase = .hspace → s.dOffset = 2 ∧ s.dI = 0 ∧ s.dData = 0#32) ∧
  (s.dPhase = .bmark → s.dOffset = 3 + 2 * s.dI) ∧
  (s.dPhase = .bspace → s.dOffset = 4 + 2 * s.dI ∧ s.matchDur (s.raw.getD (3 + 2 * s.dI) 0) Config.hw.bitMark = true) ∧
  (s.dPhase = .len ∨ s.dPhase = .hspace ∨ s.dPhase = .bmark ∨ s.dPhase = .bspace →
    3 ≤ s.raw.length ∧ s.matchDur (s.raw.getD 1 0) Config.hw.hMark = true) ∧
  (s.dPhase = .hspace ∨ s.dPhase = .bmark ∨ s.dPhase = .bspace →
    s.dNbits = apparentCount s.raw.length ∧ s.dNbits ∈ Config.hw.lengths) ∧
  (s.dPhase = .bmark ∨ s.dPhase = .bspace →
    s.dI < Config.hw.decBits ∧ s.matchDur (s.raw.getD 2 0) Config.hw.hSpace = true ∧
    (classifyAll s.matchDur s.raw s.dI).map (fun bits => BitVec.ofNat 32 (bitsToNat bits)) = some s.dData)

/-- The result registers agree with `R_STATUS` (R22 to R26): values exactly when accepted, an error code exactly when
rejected, nothing while DEC runs, and an accepted count is a supported length. -/
abbrev ResultInv (s : State) : Prop :=
  (s.dPhase ≠ .idle → s.rStatus = .none) ∧
  (s.rStatus = .accepted ↔ s.rBitCount.isSome = true) ∧
  (s.rStatus = .accepted ↔ s.rValue.isSome = true) ∧
  (s.rStatus = .accepted ↔ s.rProto.isSome = true) ∧
  (∀ n ∈ s.rBitCount, n ∈ Config.hw.lengths) ∧
  (∀ t ∈ s.rProto, t = Config.protoTag) ∧
  (s.rStatus = .rejected ↔ s.rErr ≠ 0#2)

/-- The counters stay within the bounds that let them fit their hardware widths (R12, R13, R17, R20, R120). -/
abbrev BoundInv (s : State) : Prop :=
  s.eNbits ≤ Config.hw.wEnc ∧ s.eIdx < Config.hw.wEnc ∧ s.dOffset ≤ 67 ∧ s.dI ≤ Config.hw.decBits

/-- The invariant of the block. -/
abbrev BlockInv (s : State) : Prop := EncInv s ∧ DecInv s ∧ ResultInv s ∧ BoundInv s

/-- A command the spec gives a meaning in this state: a `SEND` that meets R100, or a `DECODE` to an idle DEC (R110). -/
abbrev commandLegal (s : State) (w : CmdWord) : Prop :=
  if cmdOp w then s.ePhase = .idle ∧ 1 ≤ cmdNbits w ∧ cmdNbits w ≤ Config.hw.wEnc else s.dPhase = .idle

end Sys2Proof.Machine
end

