-- ==== Sys2Proof/Certificates/Slice0/Obligations.lean ====
section
/-! DEFINITION. The statements for the provers, each from a numbered rule of the spec. Durations and codes are written as the
spec's literals, so that a statement does not lean on the model's own constants. -/

open Sys2Proof Sys2Proof.Machine

namespace Sys2Proof.Claims

/-- The state a rejection with this `R_ERR` code leaves (`41_decoder.md` R118), written out. -/
def rejectedWith (code : BitVec 2) (s : State) : State :=
  { s with rBitCount := none, rValue := none, rProto := none, rErr := code, rStatus := .rejected, dPhase := .idle }

/-- The state an acceptance of this count and value leaves (`41_decoder.md` R117), written out. -/
def acceptedWith (n : Nat) (v : Value) (s : State) : State :=
  { s with
    rBitCount := some n
    rValue := some v
    rProto := some Config.protoTag
    rErr := 0#2
    rStatus := .accepted
    dPhase := .idle }

/-- The state after `D.START` (`41_decoder.md` R111), written out. -/
def decodeStarted (s : State) : State :=
  { s with
    rStatus := .none
    rErr := 0#2
    rBitCount := none
    rValue := none
    rProto := none
    dData := 0#32
    dI := 0
    dOffset := 1
    dPhase := .hmark }

/-- What a step does around the operation it runs (log 2, log 3), written out. -/
def stepped (s : State) : State :=
  { s with cmd := s.cmd.tail, turn := Config.nextAgent s.tick, tick := s.tick + 1 }

/-- The registers of ENC, the carrier flag and the drive stream are the same in both states. -/
def sameEncoder (s t : State) : Prop :=
  t.ePhase = s.ePhase ∧ t.eNbits = s.eNbits ∧ t.eValue = s.eValue ∧ t.eIdx = s.eIdx ∧ t.carrier = s.carrier ∧ t.tx = s.tx

/-- The result registers are the same in both states. -/
def sameResult (s t : State) : Prop :=
  t.rStatus = s.rStatus ∧ t.rErr = s.rErr ∧ t.rBitCount = s.rBitCount ∧ t.rValue = s.rValue ∧ t.rProto = s.rProto

/-- The registers of DEC and the result registers are the same in both states. -/
def sameDecoder (s t : State) : Prop :=
  t.dPhase = s.dPhase ∧ t.dOffset = s.dOffset ∧ t.dNbits = s.dNbits ∧ t.dData = s.dData ∧ t.dI = s.dI ∧ sameResult s t

/-- The capture buffer, the pending command, the matcher and the model's scheduling fields are the same in both states. -/
def sameBoundary (s t : State) : Prop :=
  t.raw = s.raw ∧ t.cmd = s.cmd ∧ t.matcher = s.matcher ∧ t.turn = s.turn ∧ t.tick = s.tick

end Sys2Proof.Claims

open Sys2Proof.Claims

/-! ### Reset and the configuration registers -/

/-- The reset values the spec gives (R39, R165); the registers R39 leaves unspecified are not spoken of. -/
def Obligations.ResetLeavesTheSpecValues : Prop :=
  State.reset.ePhase = .idle ∧ State.reset.dPhase = .idle ∧ State.reset.carrier = false ∧ State.reset.rStatus = .none ∧
    State.reset.rErr = 0#2 ∧ State.reset.rBitCount = none ∧ State.reset.rValue = none ∧ State.reset.rProto = none ∧
    State.reset.tx = []

/-- The reset input puts every register R39 gives a value at that value, whatever was running, and touches neither the buffer
nor the matcher (R165, R39, the spec's decision D19; what it leaves alone is the model's reading, log 21). -/
def Obligations.ResetInputAbandonsWhatRuns : Prop :=
  ∀ s : State,
    (inputReset s).ePhase = .idle ∧ (inputReset s).dPhase = .idle ∧ (inputReset s).carrier = false ∧
    (inputReset s).rStatus = .none ∧ (inputReset s).rErr = 0#2 ∧ (inputReset s).rBitCount = none ∧
    (inputReset s).rValue = none ∧ (inputReset s).rProto = none ∧ (inputReset s).tx = [] ∧ (inputReset s).cmd = [] ∧
    (inputReset s).raw = s.raw ∧ (inputReset s).matcher = s.matcher

/-- The ten configuration registers: number, value, width, and that each value fits its width (R27, R5). -/
def Obligations.ConfigurationRegistersAreHardwired : Prop :=
  (List.ofFn readCfg = [4400, 4400, 550, 1600, 550, 38, 56, 72, 80, 32]) ∧
  (List.ofFn cfgWidth =
    [Config.wDur, Config.wDur, Config.wDur, Config.wDur, Config.wDur, 6, 7, 7, 7, 6]) ∧
  13 ≤ Config.wDur ∧ (∀ n : Fin 10, readCfg n < 2 ^ cfgWidth n)

/-! ### Encodings -/

/-- A few words of the opcode table and of the test vectors E1, E9, E10, E11 decode to what they stand for (R75 to R77). -/
def Obligations.TableWordsDecode : Prop :=
  decode (.cmd 0x8100000001#40) = .ok (.send 1 1#32) ∧
  decode (.cmd 0xA0F20D03FC#40) = .ok (.send 32 0xF20D03FC#32) ∧
  decode (.cmd 0x8000000000#40) = .ok (.send 0 0#32) ∧
  decode (.cmd 0xA100000000#40) = .ok (.send 33 0#32) ∧
  decode (.cmd 0x0000000000#40) = .ok .decode ∧
  decode (.enc 0b000#3 (some 0x8300000005#40)) = .ok (.eStart 3 5#32) ∧
  decode (.enc 0b100#3 none) = .ok .eBspace ∧
  decode (.enc 0b111#3 none) = .error .reservedPhase ∧
  decode (.dec 0b010#3 none) = .ok .dLen ∧
  decode (.dec 0b110#3 none) = .error .reservedPhase ∧
  decode (.tail 0b101#3 true) = .ok .dAccept ∧
  decode (.tail 0b010#3 false) = .ok (.dReject .unsupportedLength)

/-- Decoding what was encoded gives the operation back, with every operand at every value the encoding admits. -/
def Obligations.DecodeOfEncodeIsIdentity : Prop :=
  ∀ i : Instr, i.wellFormed = true → decode (encode i) = .ok i

/-- Every 40-bit word is one of the two commands: bit 39 tells which, bits 38 to 32 are `nbits`, bits 31 to 0 the value, and
`DECODE` ignores its other bits (R75). -/
def Obligations.EveryCommandWordIsOneOfTheTwo : Prop :=
  ∀ w : CmdWord,
    (2 ^ 39 ≤ w.toNat →
      decode (.cmd w) = .ok (.send (w.toNat / 2 ^ 32 % 128) (BitVec.ofNat 32 (w.toNat % 2 ^ 32)))) ∧
    (w.toNat < 2 ^ 39 → decode (.cmd w) = .ok .decode)

/-- Each `SEND` word is the word of the one `SEND` it decodes to: no two words mean the same `SEND` (R75; the layout is the spec's
decision D6). -/
def Obligations.SendWordsAreUnambiguous : Prop :=
  ∀ (w : CmdWord) (n : Nat) (v : Value), decode (.cmd w) = .ok (.send n v) → encode (.send n v) = .cmd w ∧ n < 128

/-- The phase values of both agents and the micro-operations they select (R14, R21, R76, R77). -/
def Obligations.PhaseSelectsItsMicroOperation : Prop :=
  (decode (.enc EPhase.hmark.code none) = .ok .eHmark ∧ decode (.enc EPhase.hspace.code none) = .ok .eHspace ∧
    decode (.enc EPhase.bmark.code none) = .ok .eBmark ∧ decode (.enc EPhase.bspace.code none) = .ok .eBspace ∧
    decode (.enc EPhase.term.code none) = .ok .eTerm ∧ decode (.enc EPhase.off.code none) = .ok .eOff) ∧
  (decode (.dec DPhase.hmark.code none) = .ok .dHmark ∧ decode (.dec DPhase.len.code none) = .ok .dLen ∧
    decode (.dec DPhase.hspace.code none) = .ok .dHspace ∧ decode (.dec DPhase.bmark.code none) = .ok .dBmark ∧
    decode (.dec DPhase.bspace.code none) = .ok .dBspace) ∧
  (∀ p : EPhase, EPhase.ofCode p.code = some p ∧ p.code ≠ 7#3) ∧
  (∀ p : DPhase, DPhase.ofCode p.code = some p ∧ p.code ≠ 6#3 ∧ p.code ≠ 7#3)

/-! ### The step -/

/-- A step with a word written to `CMD` runs the command the oldest word decodes to, on the state with that word consumed (R28;
logs 1, 2). -/
def Obligations.StepRunsTheIssuedCommand : Prop :=
  ∀ (s : State) (w : CmdWord) (ws : List CmdWord) (i : Instr),
    s.cmd = w :: ws → decode (.cmd w) = .ok i → step s = exec i (stepped s)

/-- A step without a word in `CMD` runs the micro-operation the phase of the moving agent selects: the busy agent's, and when
both are busy that of the agent whose turn it is (R14, R21; logs 1, 3). -/
def Obligations.StepRunsTheSelectedMicroOperation : Prop :=
  ∀ (s : State) (i : Instr), s.cmd = [] →
    (s.ePhase ≠ .idle → (s.dPhase = .idle ∨ s.turn = .enc) → decode (.enc s.ePhase.code none) = .ok i →
      step s = exec i (stepped s)) ∧
    (s.dPhase ≠ .idle → (s.ePhase = .idle ∨ s.turn = .dec) → decode (.dec s.dPhase.code none) = .ok i →
      step s = exec i (stepped s))

/-- With no command issued and both agents idle the block waits and nothing changes (R166, R159). -/
def Obligations.IdleBlockWaits : Prop :=
  ∀ s : State, endOfRun s → step s = .next s

/-! ### The encoder -/

/-- `E.START` latches the operands and sets the index; a `SEND` to an idle ENC does just that, and both leave everything else
as it was (R91). -/
def Obligations.StartLatchesTheOperands : Prop :=
  ∀ (s : State) (n : Nat) (v : Value), 1 ≤ n → n ≤ 32 →
    exec (.eStart n v) s = .next { s with eNbits := n, eValue := v, eIdx := n - 1, ePhase := .hmark } ∧
    (s.ePhase = .idle →
      exec (.send n v) s = .next { s with eNbits := n, eValue := v, eIdx := n - 1, ePhase := .hmark })

/-- A `SEND` outside its precondition is refused, and one inside it is taken, whatever the value (R100; the refusals are the
spec's decisions D20 and D21, logs 11 and 12; that busy is reported first is the model's choice, log 12). -/
def Obligations.SendOutsideItsPreconditionIsRefused : Prop :=
  ∀ (s : State) (n : Nat) (v : Value),
    (s.ePhase ≠ .idle → exec (.send n v) s = .refused .encBusy) ∧
    (s.ePhase = .idle → n = 0 ∨ 32 < n → exec (.send n v) s = .refused .nbitsOutOfRange) ∧
    (s.ePhase = .idle → 1 ≤ n ∧ n ≤ 32 → ∃ t, exec (.send n v) s = .next t)

/-- `E.HMARK`, `E.BMARK` and `E.TERM` append their mark and go to their next phase, and change nothing else but the carrier
flag (R92, R94, R96). That the flag shows the mark until the next event is the model's reading, log 8. -/
def Obligations.MarkMicroOperationsDriveTheirMark : Prop :=
  ∀ s : State,
    exec .eHmark s = .next { s with tx := s.tx ++ [(.mark, 4400)], carrier := true, ePhase := .hspace } ∧
    exec .eBmark s = .next { s with tx := s.tx ++ [(.mark, 550)], carrier := true, ePhase := .bspace } ∧
    exec .eTerm s = .next { s with tx := s.tx ++ [(.mark, 550)], carrier := true, ePhase := .off }

/-- `E.HSPACE`, selected by its phase, appends the header space, switches the carrier off and goes to `E_BMARK`; nothing else
changes (R93). -/
def Obligations.EHspaceDrivesTheHeaderSpace : Prop :=
  decode (.enc 2#3 none) = .ok .eHspace ∧ EPhase.hspace.code = 2#3 ∧
  ∀ s : State, exec .eHspace s = .next { s with tx := s.tx ++ [(.space, 4400)], carrier := false, ePhase := .bmark }

/-- `E.OFF`, selected by its phase, appends the space of duration 0, leaves the carrier off and goes to `E_IDLE`; nothing else
changes (R97, the spec's decision D9; log 24). -/
def Obligations.EOffDrivesTheIdle : Prop :=
  decode (.enc 6#3 none) = .ok .eOff ∧ EPhase.off.code = 6#3 ∧
  ∀ s : State, exec .eOff s = .next { s with tx := s.tx ++ [(.space, 0)], carrier := false, ePhase := .idle }

/-- `E.BSPACE`, selected by its phase, maps the bit the index selects to its space, then steps the index, or leaves for the
terminator at index 0, which stays 0; nothing else changes, `E_VALUE` in particular; and the index selects no bit at `E_NBITS`
or above (R95). -/
def Obligations.BspaceMapsTheSelectedBit : Prop :=
  decode (.enc 4#3 none) = .ok .eBspace ∧ EPhase.bspace.code = 4#3 ∧
  ∀ s : State,
    (s.eIdx < 32 →
      (s.eIdx = 0 → exec .eBspace s = .next { s with
          tx := s.tx ++ [(.space, if s.eValue.getLsbD s.eIdx then 1600 else 550)], carrier := false, ePhase := .term }) ∧
      (s.eIdx ≠ 0 → exec .eBspace s = .next { s with
          tx := s.tx ++ [(.space, if s.eValue.getLsbD s.eIdx then 1600 else 550)], carrier := false,
          eIdx := s.eIdx - 1, ePhase := .bmark })) ∧
    (BlockInv s → s.ePhase = .bspace → s.eIdx < s.eNbits ∧ s.eNbits ≤ 32)

/-- The model's own stops where the spec defines no access, none reached from a good state (log 10): a bit the value does not
have, the length formula below 3, an element the buffer does not have. -/
def Obligations.UndefinedAccessesFault : Prop :=
  ∀ s : State,
    (32 ≤ s.eIdx → exec .eBspace s = .fault .bitIndexRange) ∧
    (s.raw.length < 3 → exec .dLen s = .fault .lengthUnderflow) ∧
    (s.raw.length ≤ s.dOffset →
      (3 ≤ s.raw.length → exec .dHmark s = .fault .captureRange) ∧ exec .dHspace s = .fault .captureRange ∧
      exec .dBmark s = .fault .captureRange ∧ exec .dBspace s = .fault .captureRange)

/-- A `SEND` issued to the idle block runs to completion in `2·nbits + 5` micro-operations (its own step, which does `E.START`,
and `2·nbits + 4` more), provided each drive call returns, which the model assumes (R98; log 9). It extends `TX` by exactly
`Encode(nbits, value)`, whose last event is the (S, 0) of the spec's decision D9 (log 24), ends with the carrier off and ENC
idle, and changes nothing of DEC, of the results and of the buffer (R90, R98, R99, R178; logs 1, 2 and 3). -/
def Obligations.SendRunsToItsFrame : Prop :=
  ∀ (s : State) (n : Nat) (v : Value), s.ePhase = .idle → s.dPhase = .idle → 1 ≤ n → n ≤ 32 →
    s.cmd = [sendWord n v] →
    ∃ s₁ t, step s = exec (.send n v) (stepped s) ∧ exec (.send n v) (stepped s) = .next s₁ ∧
      runSteps (2 * n + 4) s₁ = .next t ∧
      t = { s with
        tx := s.tx ++ encodeFrame n v
        carrier := false
        eNbits := n
        eValue := v
        eIdx := 0
        cmd := []
        turn := t.turn
        tick := t.tick }

/-- `Encode` reads the low `nbits` bits of the value and no other (R67, R99; for `nbits` 0 or above the width it is the model's
extension, log 30). -/
def Obligations.EncodeReadsOnlyTheLowBits : Prop :=
  ∀ (w : Nat) (n : Nat) (v v' : BitVec w), (∀ k, k < n → v.getLsbD k = v'.getLsbD k) → encodeFrame n v = encodeFrame n v'

/-- `Encode` is the frame of the value's bits, most-significant first, in the line code, and the final `Drive(S, 0)`, which is the
spec's decision D9 (log 24); its pulse sequence, which drops that event, is the frame alone (R64, R67, R99, R46; for `nbits` 0
or above the width `Encode` is the model's extension, log 30). -/
def Obligations.EncodeIsTheFrameOfItsBits : Prop :=
  ∀ (w : Nat) (n : Nat) (v : BitVec w),
    encodeFrame n v = (frameSymbols (frameBits n v)).flatMap Symbol.intervals ++ [(.space, 0)] ∧
    pulseSeq (encodeFrame n v) = ((frameSymbols (frameBits n v)).flatMap Symbol.intervals).map Prod.snd ∧
    (frameBits n v).length = n ∧ (∀ k, k < n → (frameBits n v)[k]? = some (v.getLsbD (n - 1 - k)))

/-- The frame of `n` bits on the medium: `2n + 3` intervals, marks at even and spaces at odd positions, each with the
duration of its field (R64, R60 to R63). -/
def Obligations.FrameLayoutOnTheMedium : Prop :=
  ∀ bits : List Bool,
    ((frameSymbols bits).flatMap Symbol.intervals).length = 2 * bits.length + 3 ∧
    (∀ j, j < 2 * bits.length + 3 →
      (((frameSymbols bits).flatMap Symbol.intervals)[j]?).map Prod.fst =
        some (if j % 2 = 0 then Kind.mark else Kind.space)) ∧
    ((frameSymbols bits).flatMap Symbol.intervals)[0]? = some (.mark, 4400) ∧
    ((frameSymbols bits).flatMap Symbol.intervals)[1]? = some (.space, 4400) ∧
    (∀ k, k < bits.length →
      ((frameSymbols bits).flatMap Symbol.intervals)[2 + 2 * k]? = some (.mark, 550) ∧
      ((frameSymbols bits).flatMap Symbol.intervals)[3 + 2 * k]? =
        some (.space, if bits.getD k false then 1600 else 550)) ∧
    ((frameSymbols bits).flatMap Symbol.intervals)[2 + 2 * bits.length]? = some (.mark, 550)

/-- The sizes of a frame: events, durations, marks, spaces, time on the medium, and the apparent bit count of a verbatim
capture (R102, R184). One of the events is the (S, 0) of D9 (log 24), the count rounds down by D11 (log 22), and for `nbits` 0
or above the width, which R102 does not speak of, `Encode` is the model's extension (log 30). -/
def Obligations.FrameSizes : Prop :=
  ∀ (w : Nat) (n : Nat) (v : BitVec w) (g : Duration),
    (encodeFrame n v).length = 2 * n + 4 ∧
    (pulseSeq (encodeFrame n v)).length = 2 * n + 3 ∧
    ((encodeFrame n v).dropLast.filter (fun e => e.1 = Kind.mark)).length = n + 2 ∧
    ((encodeFrame n v).dropLast.filter (fun e => e.1 = Kind.space)).length = n + 1 ∧
    mediumTime (encodeFrame n v) = 9350 + 1100 * n + 1050 * (frameBits n v).count true ∧
    (capture g (encodeFrame n v)).length = 2 * n + 4 ∧
    apparentCount (capture g (encodeFrame n v)).length = n

/-! ### The decoder -/

/-- `D.START` clears the results, the accumulator and the count and sets the cursor to 1; a `DECODE` to an idle DEC does just
that, and nothing else changes (R111). -/
def Obligations.DecodeStartsItsPass : Prop :=
  ∀ s : State,
    exec .dStart s = .next (decodeStarted s) ∧ (s.dPhase = .idle → exec .decode s = .next (decodeStarted s))

/-- A `DECODE` issued to a busy DEC is refused (R110, U3; log 12). -/
def Obligations.DecodeToABusyDecoderIsRefused : Prop :=
  ∀ s : State, s.dPhase ≠ .idle → exec .decode s = .refused .decBusy

/-- `D.HMARK`: too short is a rejection before any read; else the element under the cursor is matched against 4400 (R112). -/
def Obligations.HmarkChecksLengthThenHeaderMark : Prop :=
  ∀ s : State,
    (s.raw.length < 3 → exec .dHmark s = .next (rejectedWith 1#2 s)) ∧
    (∀ m : Duration, 3 ≤ s.raw.length → s.raw[s.dOffset]? = some m →
      (matchWith s.matcher m 4400 = true →
        exec .dHmark s = .next { s with dOffset := s.dOffset + 1, dPhase := .len }) ∧
      (matchWith s.matcher m 4400 = false → exec .dHmark s = .next (rejectedWith 1#2 s)))

/-- `D.LEN`: the apparent bit count is written, then tested: 56, 72 and 80 pass, every other count is rejected, and the new
count stays written (R113; beside R146, log 14). That the count rounds down is the spec's reading D11, log 22. -/
def Obligations.LenAcceptsOnlyTheThreeLengths : Prop :=
  ∀ s : State, 3 ≤ s.raw.length →
    ((s.raw.length - 3) / 2 = 56 ∨ (s.raw.length - 3) / 2 = 72 ∨ (s.raw.length - 3) / 2 = 80 →
      exec .dLen s = .next { s with dNbits := (s.raw.length - 3) / 2, dPhase := .hspace }) ∧
    ((s.raw.length - 3) / 2 ≠ 56 ∧ (s.raw.length - 3) / 2 ≠ 72 ∧ (s.raw.length - 3) / 2 ≠ 80 →
      exec .dLen s = .next (rejectedWith 2#2 { s with dNbits := (s.raw.length - 3) / 2 }))

/-- `D.HSPACE`: the element under the cursor is matched against 4400 (R114). -/
def Obligations.HspaceChecksTheHeaderSpace : Prop :=
  ∀ (s : State) (m : Duration), s.raw[s.dOffset]? = some m →
    (matchWith s.matcher m 4400 = true →
      exec .dHspace s = .next { s with dOffset := s.dOffset + 1, dPhase := .bmark }) ∧
    (matchWith s.matcher m 4400 = false → exec .dHspace s = .next (rejectedWith 1#2 s))

/-- `D.BMARK`: the element under the cursor is matched against 550 (R115). -/
def Obligations.BmarkChecksTheBitMark : Prop :=
  ∀ (s : State) (m : Duration), s.raw[s.dOffset]? = some m →
    (matchWith s.matcher m 550 = true →
      exec .dBmark s = .next { s with dOffset := s.dOffset + 1, dPhase := .bspace }) ∧
    (matchWith s.matcher m 550 = false → exec .dBmark s = .next (rejectedWith 3#2 s))

/-- `D.BSPACE`: 1600 is tested first, then 550; the bit is shifted in, the cursor and the count advance, and the 32nd bit
accepts in the same step; a space matching neither is rejected and nothing of it happens (R116). -/
def Obligations.BspaceClassifiesAndAccumulates : Prop :=
  ∀ (s : State) (d : Duration) (b : Bool), s.raw[s.dOffset]? = some d →
    ((matchWith s.matcher d 1600 = true ∧ b = true) ∨
      (matchWith s.matcher d 1600 = false ∧ matchWith s.matcher d 550 = true ∧ b = false) →
      (s.dI + 1 ≠ 32 → exec .dBspace s = .next { s with
        dData := (s.dData <<< 1) ||| (if b then 1#32 else 0#32), dOffset := s.dOffset + 1, dI := s.dI + 1,
        dPhase := .bmark }) ∧
      (s.dI + 1 = 32 → exec .dBspace s = .next
        (acceptedWith s.dNbits ((s.dData <<< 1) ||| (if b then 1#32 else 0#32)) { s with
          dData := (s.dData <<< 1) ||| (if b then 1#32 else 0#32), dOffset := s.dOffset + 1, dI := s.dI + 1 }))) ∧
    (matchWith s.matcher d 1600 = false → matchWith s.matcher d 550 = false →
      exec .dBspace s = .next (rejectedWith 3#2 s))

/-- `D.ACCEPT` writes the inferred count, the accumulator and the tag, clears the error, and DEC is idle; it is the tail of the
32nd `D.BSPACE`, with nothing read between (R117). -/
def Obligations.AcceptWritesTheResult : Prop :=
  ∀ s : State, exec .dAccept s = .next (acceptedWith s.dNbits s.dData s) ∧
    (∀ (d : Duration) (b : Bool), s.dI = 31 → s.raw[s.dOffset]? = some d → classify (matchWith s.matcher) d = some b →
      exec .dBspace s =
        exec .dAccept { s with dData := shiftIn s.dData b, dOffset := s.dOffset + 1, dI := s.dI + 1 })

/-- `D.REJECT(kind)` clears the result values, records the kind by its code, and DEC is idle (R118, R144). -/
def Obligations.RejectRecordsTheKind : Prop :=
  ∀ s : State,
    exec (.dReject .headerMismatch) s = .next (rejectedWith 1#2 s) ∧
    exec (.dReject .unsupportedLength) s = .next (rejectedWith 2#2 s) ∧
    exec (.dReject .bitMismatch) s = .next (rejectedWith 3#2 s)

/-- A rejection is precise: a micro-operation of DEC that comes to rest with `REJECTED` has changed the result registers and the
phase, and nothing else but what it wrote before the failing check, which is `D_NBITS` in `D.LEN` (R146, R118, R113; log 14). -/
def Obligations.RejectionChangesOnlyTheResult : Prop :=
  ∀ (i : Instr) (s t : State), i ∈ [Instr.dHmark, .dLen, .dHspace, .dBmark, .dBspace] → exec i s = .next t →
    t.dPhase = .idle → t.rStatus = .rejected →
    t = rejectedWith t.rErr { s with dNbits := t.dNbits } ∧ t.rErr ≠ 0#2 ∧ (i ≠ .dLen → t.dNbits = s.dNbits) ∧
      (i = .dLen → t.dNbits = (s.raw.length - 3) / 2)

/-- A `DECODE` issued to the idle block completes within 68 micro-operations (its own step, which does `D.START`, and at most 67
more); the result registers then hold `Decode(RAW)`, and nothing of ENC, of the drive stream and of the buffer has changed
(R110, R119, R125, R129, R179; logs 1, 2 and 3; `Decode` holds the spec's readings D11, D12 and D13, log 22). -/
def Obligations.DecodeRunsToItsResult : Prop :=
  ∀ (s : State) (w : CmdWord), s.ePhase = .idle → s.dPhase = .idle → s.cmd = [w] → decode (.cmd w) = .ok .decode →
    ∃ s₁ k t, step s = exec .decode (stepped s) ∧ exec .decode (stepped s) = .next s₁ ∧
      k ≤ 67 ∧ runSteps k s₁ = .next t ∧ endOfRun t ∧ resultOf t = some (decodeFrame (matchWith s.matcher) s.raw) ∧
      sameEncoder s t ∧ t.raw = s.raw ∧ t.matcher = s.matcher

/-! ### `Decode` as a function -/

/-- The lengths of the whitelist are six buffer lengths (R120, R71); that the count rounds down is the spec's reading D11, log 22. -/
def Obligations.SixBufferLengthsAreSupported : Prop :=
  ∀ l : Nat, 3 ≤ l → (apparentCount l ∈ [56, 72, 80] ↔ l ∈ [115, 116, 147, 148, 163, 164])

/-- `Decode` accepts only those lengths, each with its count (R126; the count rounds down by the spec's reading D11, log 22). -/
def Obligations.AcceptedLengthsAndCounts : Prop :=
  ∀ (mt : Duration → Duration → Bool) (raw : List Duration) (n : Nat) (v : Value) (t : Tag),
    decodeFrame mt raw = .accepted n v t →
    (raw.length, n) ∈ [(115, 56), (116, 56), (147, 72), (148, 72), (163, 80), (164, 80)] ∧ t = Config.protoTag

/-- Two buffers of equal length that agree at indices 1 to 66 decode alike: the gap, bit positions 32 and up, the terminator
and what follows are never read (R123, R73, U8; the spec derives it from `Decode`, with its readings of log 22). -/
def Obligations.UnreadPositionsDoNotMatter : Prop :=
  ∀ (mt : Duration → Duration → Bool) (raw raw' : List Duration), raw.length = raw'.length →
    (∀ i, 1 ≤ i → i ≤ 66 → raw[i]? = raw'[i]?) → decodeFrame mt raw = decodeFrame mt raw'

/-- `Decode` accepts exactly the buffers of a supported length in which every element at indices 1 to 66 matches a duration
expected at its place in the map of the buffer (R43, R72, R119; that the count rounds down is the spec's reading D11, and that
fewer than 3 elements are too short its reading D12, log 22). -/
def Obligations.AcceptanceIsTheMapOfTheBuffer : Prop :=
  ∀ (mt : Duration → Duration → Bool) (raw : List Duration) (n : Nat),
    (∃ v t, decodeFrame mt raw = .accepted n v t) ↔
      3 ≤ raw.length ∧ n = (raw.length - 3) / 2 ∧ n ∈ [56, 72, 80] ∧
      ∀ i, 1 ≤ i → i ≤ 66 → (expectedAt n i).any (fun e => mt (raw.getD i 0) e) = true

/-- The value is assembled from the first 32 bit positions, the first received on top: bit `31 - k` is the classification of
the space of bit position `k`, and these are all the bits there are (R68). -/
def Obligations.ValueHoldsTheFirstBitOnTop : Prop :=
  ∀ (mt : Duration → Duration → Bool) (raw : List Duration) (n : Nat) (v : Value) (t : Tag),
    decodeFrame mt raw = .accepted n v t →
    (∀ k, k < 32 → classify mt (raw.getD (4 + 2 * k) 0) = some (v.getLsbD (31 - k))) ∧
    (∀ v' : Value, (∀ k, k < 32 → classify mt (raw.getD (4 + 2 * k) 0) = some (v'.getLsbD (31 - k))) → v' = v)

/-- The rejection reported is the first in the order of the steps: too short, header mark, length, header space, and only
then the bits (R147, R141 to R143). That fewer than 3 elements are too short and are reported as `HeaderMismatch` is the spec's
reading D12, and that the count rounds down its reading D11 (log 22). -/
def Obligations.RejectionsFollowTheStepOrder : Prop :=
  ∀ (mt : Duration → Duration → Bool) (raw : List Duration),
    (raw.length < 3 → decodeFrame mt raw = .rejected .headerMismatch) ∧
    (3 ≤ raw.length → mt (raw.getD 1 0) 4400 = false → decodeFrame mt raw = .rejected .headerMismatch) ∧
    (3 ≤ raw.length → mt (raw.getD 1 0) 4400 = true → (raw.length - 3) / 2 ∉ [56, 72, 80] →
      decodeFrame mt raw = .rejected .unsupportedLength) ∧
    ((raw.length - 3) / 2 ∈ [56, 72, 80] → mt (raw.getD 1 0) 4400 = true → mt (raw.getD 2 0) 4400 = false →
      decodeFrame mt raw = .rejected .headerMismatch) ∧
    (∀ k, k < 32 → (raw.length - 3) / 2 ∈ [56, 72, 80] → mt (raw.getD 1 0) 4400 = true → mt (raw.getD 2 0) 4400 = true →
      mt (raw.getD (3 + 2 * k) 0) 550 = false ∨
        (mt (raw.getD (4 + 2 * k) 0) 1600 = false ∧ mt (raw.getD (4 + 2 * k) 0) 550 = false) →
      decodeFrame mt raw = .rejected .bitMismatch)

/-- The shift-accumulate law: one update is `(2·D_DATA + b) mod 2^32`, and up to 32 bits shifted into 0 lose nothing (R121, but
for its "there is no 33rd", which AcceptWritesTheResult and the invariant say). -/
def Obligations.ShiftAccumulateLosesNoBit : Prop :=
  (∀ (d : Value) (b : Bool), (shiftIn d b).toNat = (2 * d.toNat + b.toNat) % 2 ^ 32) ∧
  (∀ c : List Bool, c.length ≤ 32 →
    (c.foldl shiftIn 0#32).toNat =
      ((List.range c.length).map fun k => (c.getD k false).toNat * 2 ^ (c.length - 1 - k)).sum)

/-- The block cannot hear itself: no verbatim capture of a frame of 1 to 32 bits is accepted, and the kind is
`UnsupportedLength` when the header mark matches itself (R127 a, R176; the pulse sequence drops the (S, 0) of D9, log 24, and
the count rounds down by D11, log 22). -/
def Obligations.OwnFramesAreRejected : Prop :=
  ∀ (mt : Duration → Duration → Bool) (n : Nat) (v : Value) (g : Duration), 1 ≤ n → n ≤ 32 →
    (∃ kind, decodeFrame mt (capture g (encodeFrame n v)) = .rejected kind) ∧
    (mt 4400 4400 = true → decodeFrame mt (capture g (encodeFrame n v)) = .rejected .unsupportedLength)

/-- The round trip of the widened instance (not this hardware, D5, log 23): for 56, 72 or 80 bits and a matcher that is
reflexive on the constants and separates the spaces, the count comes back and the top 32 bits of the value (R127 b, R50,
R128). That the complete capture, of `2n + 4` elements, has the count `n` rests on the rounding of D11 (log 22), and that it has
no element for the (S, 0) on D9 (log 24). -/
def Obligations.WidenedRoundTripRecoversTheTopBits : Prop :=
  ∀ (mt : Duration → Duration → Bool) (w n : Nat) (v : BitVec w) (g : Duration),
    ReflexiveOnConstants mt → SeparatesSpaces mt → n ∈ [56, 72, 80] → n ≤ w →
    decodeFrame mt (capture g (encodeFrame n v)) = .accepted n (v.extractLsb' (n - 32) 32) Config.protoTag

/-! ### The whole machine -/

/-- The invariant holds right after reset. Of the values R39 leaves unspecified it uses only that the model's 0 is within the
bounds (log 6); the clause on the carrier flag is the model's reading (log 8). -/
def Obligations.InvariantHoldsAtReset : Prop :=
  BlockInv State.reset

/-- Every step keeps the invariant: the registers of each agent agree with its phase, `TX` ends with exactly the part of the
frame that is done, every passed check holds, the accumulator spells the bits classified so far, the result registers agree
with the status, and the counters fit their widths (R10 to R26, R54, R103, R125). The clause on the carrier flag is the model's
reading, log 8. -/
def Obligations.EveryStepKeepsTheInvariant : Prop :=
  ∀ s t : State, BlockInv s → step s = .next t → BlockInv t

/-- What the host, the capture unit and the reset input may do between steps keeps the invariant (R56, R154, R165; the three
actions are the model's, logs 2, 13 and 21). After the reset input the bounds hold of registers R39 leaves unspecified because
the model resets them to 0, log 6; the clause on the carrier flag is the model's reading, log 8. -/
def Obligations.BoundaryActionsKeepTheInvariant : Prop :=
  ∀ s : State, BlockInv s →
    (∀ w, BlockInv (hostIssue w s)) ∧ (∀ raw t, captureFill raw s = .next t → BlockInv t) ∧ BlockInv (inputReset s)

/-- From a good state the block never stops: with no command issued, or with a legal one, the step answers a next state; so
no read is out of bounds and no other access is undefined (R51, R120, R140, R151). -/
def Obligations.GoodStatesNeverStop : Prop :=
  ∀ s : State, BlockInv s → (∀ w, s.cmd.head? = some w → commandLegal s w) → ∃ t, step s = .next t

/-- When DEC comes to rest, its result registers hold `Decode(RAW)` and the status is not `NONE`, whatever ENC does meanwhile
(R119, R129, R179; `Decode` holds the spec's readings D11, D12 and D13, log 22). -/
def Obligations.DecoderRestsWithItsResult : Prop :=
  ∀ s t : State, BlockInv s → s.dPhase ≠ .idle → step s = .next t → t.dPhase = .idle →
    resultOf t = some (decodeFrame (matchWith s.matcher) s.raw) ∧ t.rStatus ≠ .none

/-- When ENC comes to rest, `TX` ends with exactly `Encode(E_NBITS, E_VALUE)`, the carrier is off, and the operands are those
of the `SEND` (R99, R178; the last event is the (S, 0) of D9, log 24). -/
def Obligations.EncoderRestsWithItsFrame : Prop :=
  ∀ s t : State, BlockInv s → s.ePhase ≠ .idle → step s = .next t → t.ePhase = .idle →
    encodeFrame s.eNbits s.eValue <:+ t.tx ∧ t.carrier = false ∧ t.eNbits = s.eNbits ∧ t.eValue = s.eValue

/-- Both agents running together: whatever the interleaving (log 3), within 135 steps both have come to rest, provided drive
calls return, which the model assumes (R181; log 9); `TX` has gained exactly the rest of ENC's frame (its last event by D9,
log 24), and the results are `Decode(RAW)` (its readings: log 22), each as if its agent ran alone; the invariant still holds,
its carrier clause by log 8 (R156, R181, D28). -/
def Obligations.ConcurrentCommandsEndAsIfAlone : Prop :=
  ∀ s : State, BlockInv s → s.cmd = [] → s.ePhase ≠ .idle → s.dPhase ≠ .idle →
    ∃ k t, k ≤ 135 ∧ runSteps k s = .next t ∧ endOfRun t ∧ BlockInv t ∧
      t.tx = s.tx ++ (encodeFrame s.eNbits s.eValue).drop (eventsDone s) ∧ t.carrier = false ∧
      resultOf t = some (decodeFrame (matchWith s.matcher) s.raw) ∧ t.raw = s.raw

/-- ENC's operations touch nothing of DEC, the results, the buffer and the boundary (R33, R156, R101). -/
def Obligations.EncoderLeavesTheDecoderAlone : Prop :=
  ∀ (i : Instr) (s t : State), i.agent = .enc → exec i s = .next t → sameDecoder s t ∧ sameBoundary s t

/-- DEC's operations touch nothing of ENC, the drive stream, the carrier, the buffer and the boundary (R33, R156, R40). -/
def Obligations.DecoderLeavesTheEncoderAlone : Prop :=
  ∀ (i : Instr) (s t : State), i.agent = .dec → exec i s = .next t → sameEncoder s t ∧ sameBoundary s t

/-- `TX` is only ever appended to, by at most one event an operation, and by ENC's drive operations alone; after a drive the
carrier flag is off unless the event is a mark (R32, R40, R44, R45). -/
def Obligations.DriveStreamOnlyGrows : Prop :=
  ∀ (i : Instr) (s t : State), exec i s = .next t →
    (i ∈ [Instr.eHmark, .eHspace, .eBmark, .eBspace, .eTerm, .eOff] →
      ∃ k d, t.tx = s.tx ++ [(k, d)] ∧ (k = .space → t.carrier = false) ∧ d ∈ [4400, 550, 1600, 0]) ∧
    (i ∉ [Instr.eHmark, .eHspace, .eBmark, .eBspace, .eTerm, .eOff] → t.tx = s.tx ∧ t.carrier = s.carrier)

/-- The cursor never decreases and moves by at most 1, but for the start of a pass (R17, R41). -/
def Obligations.CursorNeverMovesBack : Prop :=
  ∀ (i : Instr) (s t : State), exec i s = .next t → i ≠ .decode → i ≠ .dStart →
    s.dOffset ≤ t.dOffset ∧ t.dOffset ≤ s.dOffset + 1

/-- The result registers hold from the completion of one `DECODE` until the next `D.START` (or the reset input): no step of an
idle DEC to which no `DECODE` is issued changes one of them (R36). -/
def Obligations.ResultsHoldUntilTheNextDecode : Prop :=
  ∀ s t : State, s.dPhase = .idle → (∀ w, s.cmd.head? = some w → 2 ^ 39 ≤ w.toNat) → step s = .next t → sameResult s t

/-- No step changes the capture buffer or the matcher (R30, R41, R56, R180). -/
def Obligations.BufferAndMatcherNeverChange : Prop :=
  ∀ s t : State, step s = .next t → t.raw = s.raw ∧ t.matcher = s.matcher

/-! ### The host and the payload -/

/-- In a good state the host reads a result exactly when the status is `ACCEPTED`, and faults otherwise (R23 to R25, R167). -/
def Obligations.HostReadsAResultOnlyWhenAccepted : Prop :=
  ∀ s : State, BlockInv s →
    (s.rStatus = .accepted → ∃ n v, readBitCount s = .ok n ∧ n ∈ [56, 72, 80] ∧ readValue s = .ok v ∧
      readProto s = .ok Config.protoTag) ∧
    (s.rStatus ≠ .accepted → readBitCount s = .error .noValue ∧ readValue s = .error .noValue ∧
      readProto s = .error .noValue)

/-- The host's write of `CMD` issues a command, behind those written before it. A `SEND` and a `DECODE` issued together to the
idle block, in either order, are both started, by the next two steps (R156). The capture unit fills the buffer of an idle DEC,
also while the word of a `DECODE` waits, which is the model's choice, and is refused while DEC is busy (R28, R56, R171; logs 2,
13 and 28). -/
def Obligations.BoundaryActionsDoWhatTheySay : Prop :=
  ∀ (s : State) (w : CmdWord) (raw : List Duration),
    hostIssue w s = { s with cmd := s.cmd ++ [w] } ∧
    (∀ (n : Nat) (v : Value), endOfRun s → 1 ≤ n → n ≤ 32 → decode (.cmd w) = .ok .decode →
      (∃ s₁ s₂, step (hostIssue w (hostIssue (sendWord n v) s)) = .next s₁ ∧ step s₁ = .next s₂ ∧
        s₂ = decodeStarted { s with
          eNbits := n, eValue := v, eIdx := n - 1, ePhase := .hmark, turn := s₂.turn, tick := s₂.tick }) ∧
      (∃ s₁ s₂, step (hostIssue (sendWord n v) (hostIssue w s)) = .next s₁ ∧ step s₁ = .next s₂ ∧
        s₂ = decodeStarted { s with
          eNbits := n, eValue := v, eIdx := n - 1, ePhase := .hmark, turn := s₂.turn, tick := s₂.tick })) ∧
    (s.dPhase = .idle → captureFill raw s = .next { s with raw := raw }) ∧
    (s.dPhase ≠ .idle → captureFill raw s = .refused .captureBusy)

/-- Bytes 5 and 6 of the payload: the fields are where the layout puts them, and byte 6 is the sum of its fields (R80, R81).
For the temperature values 14 and 15, which have no meaning in the source, the formula is the model's choice, log 29. -/
def Obligations.PayloadFieldsSitWhereTheLayoutPutsThem : Prop :=
  (∀ p : Payload, p.celsius = p.b5.toNat % 16 + 17 ∧ p.fanSpeed.toNat = p.b6.toNat % 8 ∧
    p.mode.toNat = p.b6.toNat / 8 % 4 ∧ p.power.toNat = p.b6.toNat / 32) ∧
  (∀ (p : Payload) (fan : BitVec 3) (mode : BitVec 2) (power : BitVec 3), p.b6 = packByte6 fan mode power →
    p.fanSpeed = fan ∧ p.mode = mode ∧ p.power = power)

/-- A 72-bit frame of a payload decodes to bytes 0 to 3 and nothing else of it (R84, R49, R50; the byte order is the spec's
decision D26, log 20, the 72-bit `Encode` the widened instance of log 23, and the count rounds down by D11, log 22). -/
def Obligations.PayloadDecodesToItsFirstFourBytes : Prop :=
  ∀ (mt : Duration → Duration → Bool) (p : Payload) (g : Duration), ReflexiveOnConstants mt → SeparatesSpaces mt →
    ∃ v : Value, decodeFrame mt (capture g (encodeFrame 72 p.frame)) = .accepted 72 v Config.protoTag ∧
      v.extractLsb' 24 8 = p.b0 ∧ v.extractLsb' 16 8 = p.b1 ∧ v.extractLsb' 8 8 = p.b2 ∧ v.extractLsb' 0 8 = p.b3
end

