-- ==== Sys2Proof/Laws/Config.lean ====
section
/-! SUPPORT. The fixed parameters as the numerals they are. -/

namespace Sys2Proof

@[simp] theorem Config.hw_hMark : Config.hw.hMark = 4400 := rfl
@[simp] theorem Config.hw_hSpace : Config.hw.hSpace = 4400 := rfl
@[simp] theorem Config.hw_bitMark : Config.hw.bitMark = 550 := rfl
@[simp] theorem Config.hw_oneSpace : Config.hw.oneSpace = 1600 := rfl
@[simp] theorem Config.hw_zeroSpace : Config.hw.zeroSpace = 550 := rfl
@[simp] theorem Config.hw_carrierKhz : Config.hw.carrierKhz = 38 := rfl
@[simp] theorem Config.hw_lengths : Config.hw.lengths = [56, 72, 80] := rfl
@[simp] theorem Config.hw_decBits : Config.hw.decBits = 32 := rfl
@[simp] theorem Config.hw_wVal : Config.hw.wVal = 32 := rfl
@[simp] theorem Config.hw_wEnc : Config.hw.wEnc = 32 := rfl
@[simp] theorem Config.hw_overhead : Config.hw.overhead = 3 := rfl

end Sys2Proof
end

