-- ==== Sys2Proof/Laws/Encode.lean ====
section
/-! SUPPORT. The fields of a command word, read from the word `SEND` is written with. -/

namespace Sys2Proof

@[simp] theorem nbitsLegal_iff {n : Nat} : nbitsLegal n = true ↔ 1 ≤ n ∧ n ≤ 32 := by
  rw [nbitsLegal, Bool.and_eq_true, decide_eq_true_iff, decide_eq_true_iff, Config.hw_wEnc]

theorem cmdOp_eq (w : CmdWord) : cmdOp w = decide (2 ^ 39 ≤ w.toNat) := by
  have := w.isLt
  simp only [cmdOp, BitVec.getLsbD, Nat.testBit_eq_decide_div_mod_eq]
  congr 1
  apply propext
  omega

theorem sendWord_getLsbD (n : Nat) (v : Value) (k : Nat) :
    (sendWord n v).getLsbD k =
      if k < 32 then v.getLsbD k else if k < 39 then (BitVec.ofNat 7 n).getLsbD (k - 32) else decide (k = 39) := by
  simp only [sendWord, BitVec.getLsbD_cast, BitVec.getLsbD_append]
  split
  · rfl
  · rename_i h
    by_cases h2 : k < 39
    · rw [if_pos (by omega), if_pos h2]
    · rw [if_neg (by omega), if_neg h2]
      by_cases h3 : k = 39
      · subst h3; rfl
      · simp only [h3, decide_false]
        exact BitVec.getLsbD_of_ge _ _ (by omega)

@[simp] theorem cmdOp_sendWord (n : Nat) (v : Value) : cmdOp (sendWord n v) = true := by
  simp [cmdOp, sendWord_getLsbD, -BitVec.getLsbD_eq_getElem]

theorem cmdNbits_sendWord {n : Nat} (v : Value) (h : n < 128) : cmdNbits (sendWord n v) = n := by
  have e : (sendWord n v).extractLsb' 32 7 = BitVec.ofNat 7 n := by
    apply BitVec.eq_of_getLsbD_eq
    intro k hk
    rw [BitVec.getLsbD_extractLsb', sendWord_getLsbD, if_neg (by omega), if_pos (by omega), Nat.add_sub_cancel_left]
    simp [hk]
  rw [cmdNbits, e, BitVec.toNat_ofNat, Nat.mod_eq_of_lt h]

@[simp] theorem cmdValue_sendWord (n : Nat) (v : Value) : cmdValue (sendWord n v) = v := by
  apply BitVec.eq_of_getLsbD_eq
  intro k hk
  rw [cmdValue, BitVec.getLsbD_extractLsb', sendWord_getLsbD, Nat.zero_add, if_pos hk]
  simp [hk]

/-- Every field of a word whose op bit is 1 is in the word of the `SEND` it spells. -/
theorem sendWord_of_fields {w : CmdWord} (h : cmdOp w = true) : sendWord (cmdNbits w) (cmdValue w) = w := by
  apply BitVec.eq_of_getLsbD_eq
  intro k hk
  rw [sendWord_getLsbD]
  split
  · rename_i h1; simp [cmdValue, h1]
  · split
    · rename_i h1 h2
      have e : BitVec.ofNat 7 (cmdNbits w) = w.extractLsb' 32 7 := by
        rw [cmdNbits, BitVec.ofNat_toNat, BitVec.setWidth_eq]
      rw [e, BitVec.getLsbD_extractLsb', show 32 + (k - 32) = k by omega]
      simp [show k - 32 < 7 by omega]
    · have h3 : k = 39 := by omega
      subst h3
      simpa [cmdOp] using h.symm

end Sys2Proof
end

