-- ==== Sys2Proof/Laws/Frame.lean ====
section
/-! SUPPORT. The layout of `Encode`, element by element, and the length of what is built from it. -/

namespace Sys2Proof.Machine

/-! ### Lists of pairs of intervals -/

theorem length_flatMap_pair {α β : Type} (a c : α → β) (l : List α) :
    (l.flatMap fun x => [a x, c x]).length = 2 * l.length := by
  induction l with
  | nil => rfl
  | cons x l ih => simp only [List.flatMap_cons, List.length_append, ih, List.length_cons, List.length_nil]; omega

theorem flatMap_pair_even {α β : Type} (a c : α → β) (l : List α) (k : Nat) :
    (l.flatMap fun x => [a x, c x])[2 * k]? = l[k]?.map a := by
  induction l generalizing k with
  | nil => simp
  | cons x l ih =>
    cases k with
    | zero => simp
    | succ k => simpa [Nat.mul_succ] using ih k

theorem flatMap_pair_odd {α β : Type} (a c : α → β) (l : List α) (k : Nat) :
    (l.flatMap fun x => [a x, c x])[2 * k + 1]? = l[k]?.map c := by
  induction l generalizing k with
  | nil => simp
  | cons x l ih =>
    cases k with
    | zero => simp
    | succ k => simpa [Nat.mul_succ] using ih k

/-! ### `Encode` -/

section
variable {w : Nat} (n : Nat) (v : BitVec w)

@[simp] theorem encodeFrame_length : (encodeFrame n v).length = 2 * n + 4 := by
  simp only [encodeFrame, List.length_append, length_flatMap_pair, List.length_range, List.length_cons, List.length_nil]
  omega

theorem encodeFrame_cons :
    encodeFrame n v = (.mark, 4400) :: (.space, 4400) ::
      ((List.range n).flatMap (fun k => [(Kind.mark, 550), (Kind.space, spaceOf (v.getLsbD (n - 1 - k)))])
        ++ [(.mark, 550), (.space, 0)]) := rfl

@[simp] theorem encodeFrame_zero : (encodeFrame n v)[0]? = some (.mark, 4400) := rfl

@[simp] theorem encodeFrame_one : (encodeFrame n v)[1]? = some (.space, 4400) := rfl

theorem encodeFrame_bitMark {k : Nat} (h : k < n) : (encodeFrame n v)[2 + 2 * k]? = some (.mark, 550) := by
  rw [encodeFrame_cons, Nat.add_comm, List.getElem?_cons_succ, List.getElem?_cons_succ, List.getElem?_append_left,
    flatMap_pair_even (fun _ => (Kind.mark, 550))]
  · simp [h]
  · rw [length_flatMap_pair, List.length_range]; omega

theorem encodeFrame_bitSpace {k : Nat} (h : k < n) :
    (encodeFrame n v)[3 + 2 * k]? = some (.space, spaceOf (v.getLsbD (n - 1 - k))) := by
  rw [encodeFrame_cons, show 3 + 2 * k = 2 * k + 1 + 1 + 1 by omega, List.getElem?_cons_succ, List.getElem?_cons_succ,
    List.getElem?_append_left, flatMap_pair_odd (fun _ => (Kind.mark, 550))]
  · simp [h]
  · rw [length_flatMap_pair, List.length_range]; omega

theorem encodeFrame_term : (encodeFrame n v)[2 + 2 * n]? = some (.mark, 550) := by
  rw [encodeFrame_cons, Nat.add_comm, List.getElem?_cons_succ, List.getElem?_cons_succ, List.getElem?_append_right, length_flatMap_pair,
    List.length_range, Nat.sub_self]
  · rfl
  · rw [length_flatMap_pair, List.length_range]

theorem encodeFrame_off : (encodeFrame n v)[3 + 2 * n]? = some (.space, 0) := by
  rw [encodeFrame_cons, show 3 + 2 * n = 2 * n + 1 + 1 + 1 by omega, List.getElem?_cons_succ, List.getElem?_cons_succ,
    List.getElem?_append_right, length_flatMap_pair, List.length_range, Nat.add_sub_cancel_left]
  · rfl
  · rw [length_flatMap_pair, List.length_range]; omega

/-- The events of a frame but its last, which is the idle without a duration. -/
theorem encodeFrame_dropLast :
    encodeFrame n v = (encodeFrame n v).dropLast ++ [(.space, 0)] ∧
      (encodeFrame n v).dropLast =
        [(.mark, 4400), (.space, 4400)]
          ++ (List.range n).flatMap (fun k => [(Kind.mark, 550), (Kind.space, spaceOf (v.getLsbD (n - 1 - k)))])
          ++ [(.mark, 550)] := by
  have e : encodeFrame n v =
      ([(.mark, 4400), (.space, 4400)]
          ++ (List.range n).flatMap (fun k => [(Kind.mark, 550), (Kind.space, spaceOf (v.getLsbD (n - 1 - k)))])
          ++ [(.mark, 550)]) ++ [(.space, 0)] := by
    simp [encodeFrame]
  have d := congrArg List.dropLast e
  rw [List.dropLast_concat] at d
  exact ⟨by rw [d]; exact e, d⟩

theorem pulseSeq_encodeFrame : pulseSeq (encodeFrame n v) = (encodeFrame n v).dropLast.map Prod.snd := by
  have h : (encodeFrame n v).getLast? = some (.space, 0) := by
    rw [(encodeFrame_dropLast n v).1, List.getLast?_append]; rfl
  rw [pulseSeq, if_pos h]

@[simp] theorem pulseSeq_encodeFrame_length : (pulseSeq (encodeFrame n v)).length = 2 * n + 3 := by
  rw [pulseSeq_encodeFrame]; simp

end

/-- One more element of a prefix. -/
theorem take_succ_of_getElem? {α : Type} {l : List α} {k : Nat} {a : α} (h : l[k]? = some a) :
    l.take (k + 1) = l.take k ++ [a] := by
  rw [List.take_add_one, h]; rfl

/-! ### A verbatim capture -/

/-- The elements of a capture are those of the frame, one place later. -/
theorem capture_getElem? {w : Nat} (n : Nat) (v : BitVec w) (g : Duration) {i : Nat} (h : i < 2 * n + 3) :
    (capture g (encodeFrame n v))[i + 1]? = (encodeFrame n v)[i]?.map Prod.snd := by
  rw [capture, List.getElem?_cons_succ, pulseSeq_encodeFrame, List.getElem?_map, List.getElem?_dropLast, if_pos (by simp; omega)]

@[simp] theorem capture_length {w : Nat} (n : Nat) (v : BitVec w) (g : Duration) :
    (capture g (encodeFrame n v)).length = 2 * n + 4 := by
  simp [capture]

/-! ### `Decode` -/

theorem classifyAll_length {mt : Duration → Duration → Bool} {raw : List Duration} {j : Nat} {bs : List Bool}
    (h : classifyAll mt raw j = some bs) : bs.length = j := by
  induction j generalizing bs with
  | zero => simp [classifyAll] at h; simp [h]
  | succ j ih =>
    simp only [classifyAll] at h
    split at h
    · rename_i bs' b hb _
      cases h
      simp [ih hb]
    · cases h

/-- All positions classify exactly when each does, and the list holds their classifications. -/
theorem classifyAll_iff {mt : Duration → Duration → Bool} {raw : List Duration} {j : Nat} {bs : List Bool} :
    classifyAll mt raw j = some bs ↔ bs.length = j ∧ ∀ k, k < j → classifyPos mt raw k = bs[k]? := by
  induction j generalizing bs with
  | zero =>
    simp only [classifyAll, Option.some.injEq, Nat.not_lt_zero, false_implies, implies_true, and_true,
      List.length_eq_zero_iff]
    exact eq_comm
  | succ j ih =>
    constructor
    · intro h
      refine ⟨classifyAll_length h, ?_⟩
      simp only [classifyAll] at h
      split at h
      · rename_i bs' b hb hp
        cases h
        obtain ⟨hl, hk⟩ := ih.mp hb
        intro k hkj
        rcases Nat.lt_succ_iff_lt_or_eq.mp hkj with hlt | rfl
        · rw [List.getElem?_append_left (by omega)]; exact hk k hlt
        · rw [hp, List.getElem?_append_right (by omega), hl]; simp
      · cases h
    · rintro ⟨hl, hk⟩
      obtain ⟨bs', b, rfl⟩ : ∃ bs' b, bs = bs' ++ [b] :=
        ⟨bs.dropLast, bs.getLast (by rintro rfl; cases hl), (List.dropLast_append_getLast _).symm⟩
      have hl' : bs'.length = j := by simpa using hl
      have h1 : classifyAll mt raw j = some bs' := ih.mpr ⟨hl', fun k hkj => by
        rw [hk k (Nat.lt_succ_of_lt hkj), List.getElem?_append_left (by omega)]⟩
      have h2 : classifyPos mt raw j = some b := by
        rw [hk j (Nat.lt_succ_self j), List.getElem?_append_right (by omega), hl']; simp
      simp [classifyAll, h1, h2]

/-- `Decode` accepts when every check passes and every position classifies. -/
theorem decodeFrame_of_bits {mt : Duration → Duration → Bool} {raw : List Duration} {bits : List Bool}
    (h3 : 3 ≤ raw.length) (h1 : mt (raw.getD 1 0) 4400 = true) (hn : apparentCount raw.length ∈ [56, 72, 80])
    (h2 : mt (raw.getD 2 0) 4400 = true) (hb : classifyAll mt raw 32 = some bits) :
    decodeFrame mt raw = .accepted (apparentCount raw.length) (BitVec.ofNat 32 (bitsToNat bits)) Config.protoTag := by
  unfold decodeFrame
  rw [if_neg (by simpa using h3), if_neg (by simpa using h1),
    if_neg (show ¬apparentCount raw.length ∉ Config.hw.lengths from not_not.mpr hn), if_neg (by simpa using h2),
    Config.hw_decBits, hb]

/-- What an acceptance says. -/
theorem decodeFrame_accepted {mt : Duration → Duration → Bool} {raw : List Duration} {n : Nat} {v : Value} {t : Tag}
    (h : decodeFrame mt raw = .accepted n v t) :
    3 ≤ raw.length ∧ mt (raw.getD 1 0) 4400 = true ∧ n = apparentCount raw.length ∧ n ∈ [56, 72, 80] ∧
      mt (raw.getD 2 0) 4400 = true ∧
      ∃ bits, classifyAll mt raw 32 = some bits ∧ v = BitVec.ofNat 32 (bitsToNat bits) ∧ t = Config.protoTag := by
  unfold decodeFrame at h
  split at h
  · cases h
  split at h
  · cases h
  split at h
  · cases h
  split at h
  · cases h
  rename_i h3 h1 hn h2
  split at h
  · rename_i bits hb
    cases h
    exact ⟨by simpa using h3, by simpa using h1, rfl, not_not.mp hn, by simpa using h2, bits, hb, rfl, rfl⟩
  · cases h

/-- `Decode` ends in `BitMismatch` when the checks before the bits pass and some position does not classify. -/
theorem decodeFrame_bitMismatch {mt : Duration → Duration → Bool} {raw : List Duration}
    (h3 : 3 ≤ raw.length) (h1 : mt (raw.getD 1 0) 4400 = true) (hn : apparentCount raw.length ∈ [56, 72, 80])
    (h2 : mt (raw.getD 2 0) 4400 = true) (hb : classifyAll mt raw 32 = none) :
    decodeFrame mt raw = .rejected .bitMismatch := by
  unfold decodeFrame
  rw [if_neg (by simpa using h3), if_neg (by simpa using h1),
    if_neg (show ¬apparentCount raw.length ∉ Config.hw.lengths from not_not.mpr hn), if_neg (by simpa using h2),
    Config.hw_decBits, hb]

/-- One position that does not classify is enough. -/
theorem classifyAll_none {mt : Duration → Duration → Bool} {raw : List Duration} {j k : Nat} (hk : k < j)
    (h : classifyPos mt raw k = none) : classifyAll mt raw j = none := by
  cases hc : classifyAll mt raw j with
  | none => rfl
  | some bs =>
    obtain ⟨hl, hp⟩ := classifyAll_iff.mp hc
    have := hp k hk
    rw [h, List.getElem?_eq_getElem (by omega)] at this
    cases this

/-- The classifications read the buffer at `3 .. 2 + 2·j` only. -/
theorem classifyAll_congr {mt : Duration → Duration → Bool} {raw raw' : List Duration} {j : Nat}
    (h : ∀ k, k < j → classifyPos mt raw k = classifyPos mt raw' k) : classifyAll mt raw j = classifyAll mt raw' j := by
  induction j with
  | zero => rfl
  | succ j ih =>
    simp only [classifyAll, ih fun k hk => h k (Nat.lt_succ_of_lt hk), h j (Nat.lt_succ_self j)]

theorem bitsToNat_append (bits : List Bool) (b : Bool) : bitsToNat (bits ++ [b]) = 2 * bitsToNat bits + b.toNat := by
  simp [bitsToNat]

theorem bitsToNat_lt (bits : List Bool) : bitsToNat bits < 2 ^ bits.length := by
  induction bits using List.reverseRecOn with
  | nil => simp [bitsToNat]
  | append_singleton bits b ih =>
    rw [bitsToNat_append, List.length_append, List.length_singleton, Nat.pow_succ]
    have := b.toNat_le
    omega

/-- The first bit is the most significant. -/
theorem bitsToNat_testBit (bits : List Bool) (k : Nat) (h : k < bits.length) :
    (bitsToNat bits).testBit (bits.length - 1 - k) = bits.getD k false := by
  induction bits using List.reverseRecOn with
  | nil => simp at h
  | append_singleton bits b ih =>
    rw [List.length_append, List.length_singleton] at h ⊢
    rw [bitsToNat_append]
    rcases Nat.lt_succ_iff_lt_or_eq.mp h with hk | rfl
    · rw [show bits.length + 1 - 1 - k = (bits.length - 1 - k) + 1 by omega, Nat.testBit_add_one,
        show (2 * bitsToNat bits + b.toNat) / 2 = bitsToNat bits by have := b.toNat_le; omega, ih hk,
        List.getD_eq_getElem?_getD, List.getD_eq_getElem?_getD, List.getElem?_append_left hk]
    · rw [Nat.add_sub_cancel, Nat.sub_self, List.getD_eq_getElem?_getD, List.getElem?_append_right (Nat.le_refl _)]
      cases b <;> simp [Nat.testBit_zero]

end Sys2Proof.Machine
end

