-- ==== Sys2Proof/Laws/State.lean ====
section
/-! SUPPORT. One lemma for each field and each named update of the state, so that no later proof unfolds a record update. -/

namespace Sys2Proof.Machine

@[simp] theorem drive_ePhase (k : Kind) (d : Duration) (s : State) : (drive k d s).ePhase = s.ePhase := rfl
@[simp] theorem drive_eNbits (k : Kind) (d : Duration) (s : State) : (drive k d s).eNbits = s.eNbits := rfl
@[simp] theorem drive_eValue (k : Kind) (d : Duration) (s : State) : (drive k d s).eValue = s.eValue := rfl
@[simp] theorem drive_eIdx (k : Kind) (d : Duration) (s : State) : (drive k d s).eIdx = s.eIdx := rfl
@[simp] theorem drive_carrier (k : Kind) (d : Duration) (s : State) : (drive k d s).carrier = carrierAfter k := rfl
@[simp] theorem drive_dPhase (k : Kind) (d : Duration) (s : State) : (drive k d s).dPhase = s.dPhase := rfl
@[simp] theorem drive_dOffset (k : Kind) (d : Duration) (s : State) : (drive k d s).dOffset = s.dOffset := rfl
@[simp] theorem drive_dNbits (k : Kind) (d : Duration) (s : State) : (drive k d s).dNbits = s.dNbits := rfl
@[simp] theorem drive_dData (k : Kind) (d : Duration) (s : State) : (drive k d s).dData = s.dData := rfl
@[simp] theorem drive_dI (k : Kind) (d : Duration) (s : State) : (drive k d s).dI = s.dI := rfl
@[simp] theorem drive_rStatus (k : Kind) (d : Duration) (s : State) : (drive k d s).rStatus = s.rStatus := rfl
@[simp] theorem drive_rErr (k : Kind) (d : Duration) (s : State) : (drive k d s).rErr = s.rErr := rfl
@[simp] theorem drive_rBitCount (k : Kind) (d : Duration) (s : State) : (drive k d s).rBitCount = s.rBitCount := rfl
@[simp] theorem drive_rValue (k : Kind) (d : Duration) (s : State) : (drive k d s).rValue = s.rValue := rfl
@[simp] theorem drive_rProto (k : Kind) (d : Duration) (s : State) : (drive k d s).rProto = s.rProto := rfl
@[simp] theorem drive_tx (k : Kind) (d : Duration) (s : State) : (drive k d s).tx = s.tx ++ [(k, d)] := rfl
@[simp] theorem drive_raw (k : Kind) (d : Duration) (s : State) : (drive k d s).raw = s.raw := rfl
@[simp] theorem drive_cmd (k : Kind) (d : Duration) (s : State) : (drive k d s).cmd = s.cmd := rfl
@[simp] theorem drive_turn (k : Kind) (d : Duration) (s : State) : (drive k d s).turn = s.turn := rfl
@[simp] theorem drive_tick (k : Kind) (d : Duration) (s : State) : (drive k d s).tick = s.tick := rfl
@[simp] theorem drive_matcher (k : Kind) (d : Duration) (s : State) : (drive k d s).matcher = s.matcher := rfl

@[simp] theorem advanceCursor_ePhase (s : State) : (advanceCursor s).ePhase = s.ePhase := rfl
@[simp] theorem advanceCursor_eNbits (s : State) : (advanceCursor s).eNbits = s.eNbits := rfl
@[simp] theorem advanceCursor_eValue (s : State) : (advanceCursor s).eValue = s.eValue := rfl
@[simp] theorem advanceCursor_eIdx (s : State) : (advanceCursor s).eIdx = s.eIdx := rfl
@[simp] theorem advanceCursor_carrier (s : State) : (advanceCursor s).carrier = s.carrier := rfl
@[simp] theorem advanceCursor_dPhase (s : State) : (advanceCursor s).dPhase = s.dPhase := rfl
@[simp] theorem advanceCursor_dOffset (s : State) : (advanceCursor s).dOffset = s.dOffset + 1 := rfl
@[simp] theorem advanceCursor_dNbits (s : State) : (advanceCursor s).dNbits = s.dNbits := rfl
@[simp] theorem advanceCursor_dData (s : State) : (advanceCursor s).dData = s.dData := rfl
@[simp] theorem advanceCursor_dI (s : State) : (advanceCursor s).dI = s.dI := rfl
@[simp] theorem advanceCursor_rStatus (s : State) : (advanceCursor s).rStatus = s.rStatus := rfl
@[simp] theorem advanceCursor_rErr (s : State) : (advanceCursor s).rErr = s.rErr := rfl
@[simp] theorem advanceCursor_rBitCount (s : State) : (advanceCursor s).rBitCount = s.rBitCount := rfl
@[simp] theorem advanceCursor_rValue (s : State) : (advanceCursor s).rValue = s.rValue := rfl
@[simp] theorem advanceCursor_rProto (s : State) : (advanceCursor s).rProto = s.rProto := rfl
@[simp] theorem advanceCursor_tx (s : State) : (advanceCursor s).tx = s.tx := rfl
@[simp] theorem advanceCursor_raw (s : State) : (advanceCursor s).raw = s.raw := rfl
@[simp] theorem advanceCursor_cmd (s : State) : (advanceCursor s).cmd = s.cmd := rfl
@[simp] theorem advanceCursor_turn (s : State) : (advanceCursor s).turn = s.turn := rfl
@[simp] theorem advanceCursor_tick (s : State) : (advanceCursor s).tick = s.tick := rfl
@[simp] theorem advanceCursor_matcher (s : State) : (advanceCursor s).matcher = s.matcher := rfl

@[simp] theorem reject_ePhase (kind : RejectKind) (s : State) : (reject kind s).ePhase = s.ePhase := rfl
@[simp] theorem reject_eNbits (kind : RejectKind) (s : State) : (reject kind s).eNbits = s.eNbits := rfl
@[simp] theorem reject_eValue (kind : RejectKind) (s : State) : (reject kind s).eValue = s.eValue := rfl
@[simp] theorem reject_eIdx (kind : RejectKind) (s : State) : (reject kind s).eIdx = s.eIdx := rfl
@[simp] theorem reject_carrier (kind : RejectKind) (s : State) : (reject kind s).carrier = s.carrier := rfl
@[simp] theorem reject_dPhase (kind : RejectKind) (s : State) : (reject kind s).dPhase = .idle := rfl
@[simp] theorem reject_dOffset (kind : RejectKind) (s : State) : (reject kind s).dOffset = s.dOffset := rfl
@[simp] theorem reject_dNbits (kind : RejectKind) (s : State) : (reject kind s).dNbits = s.dNbits := rfl
@[simp] theorem reject_dData (kind : RejectKind) (s : State) : (reject kind s).dData = s.dData := rfl
@[simp] theorem reject_dI (kind : RejectKind) (s : State) : (reject kind s).dI = s.dI := rfl
@[simp] theorem reject_rStatus (kind : RejectKind) (s : State) : (reject kind s).rStatus = .rejected := rfl
@[simp] theorem reject_rErr (kind : RejectKind) (s : State) : (reject kind s).rErr = errCode kind := rfl
@[simp] theorem reject_rBitCount (kind : RejectKind) (s : State) : (reject kind s).rBitCount = none := rfl
@[simp] theorem reject_rValue (kind : RejectKind) (s : State) : (reject kind s).rValue = none := rfl
@[simp] theorem reject_rProto (kind : RejectKind) (s : State) : (reject kind s).rProto = none := rfl
@[simp] theorem reject_tx (kind : RejectKind) (s : State) : (reject kind s).tx = s.tx := rfl
@[simp] theorem reject_raw (kind : RejectKind) (s : State) : (reject kind s).raw = s.raw := rfl
@[simp] theorem reject_cmd (kind : RejectKind) (s : State) : (reject kind s).cmd = s.cmd := rfl
@[simp] theorem reject_turn (kind : RejectKind) (s : State) : (reject kind s).turn = s.turn := rfl
@[simp] theorem reject_tick (kind : RejectKind) (s : State) : (reject kind s).tick = s.tick := rfl
@[simp] theorem reject_matcher (kind : RejectKind) (s : State) : (reject kind s).matcher = s.matcher := rfl

@[simp] theorem accept_ePhase (s : State) : (accept s).ePhase = s.ePhase := rfl
@[simp] theorem accept_eNbits (s : State) : (accept s).eNbits = s.eNbits := rfl
@[simp] theorem accept_eValue (s : State) : (accept s).eValue = s.eValue := rfl
@[simp] theorem accept_eIdx (s : State) : (accept s).eIdx = s.eIdx := rfl
@[simp] theorem accept_carrier (s : State) : (accept s).carrier = s.carrier := rfl
@[simp] theorem accept_dPhase (s : State) : (accept s).dPhase = .idle := rfl
@[simp] theorem accept_dOffset (s : State) : (accept s).dOffset = s.dOffset := rfl
@[simp] theorem accept_dNbits (s : State) : (accept s).dNbits = s.dNbits := rfl
@[simp] theorem accept_dData (s : State) : (accept s).dData = s.dData := rfl
@[simp] theorem accept_dI (s : State) : (accept s).dI = s.dI := rfl
@[simp] theorem accept_rStatus (s : State) : (accept s).rStatus = .accepted := rfl
@[simp] theorem accept_rErr (s : State) : (accept s).rErr = 0#2 := rfl
@[simp] theorem accept_rBitCount (s : State) : (accept s).rBitCount = some s.dNbits := rfl
@[simp] theorem accept_rValue (s : State) : (accept s).rValue = some s.dData := rfl
@[simp] theorem accept_rProto (s : State) : (accept s).rProto = some Config.protoTag := rfl
@[simp] theorem accept_tx (s : State) : (accept s).tx = s.tx := rfl
@[simp] theorem accept_raw (s : State) : (accept s).raw = s.raw := rfl
@[simp] theorem accept_cmd (s : State) : (accept s).cmd = s.cmd := rfl
@[simp] theorem accept_turn (s : State) : (accept s).turn = s.turn := rfl
@[simp] theorem accept_tick (s : State) : (accept s).tick = s.tick := rfl
@[simp] theorem accept_matcher (s : State) : (accept s).matcher = s.matcher := rfl

@[simp] theorem latchSend_ePhase (n : Nat) (v : Value) (s : State) : (latchSend n v s).ePhase = .hmark := rfl
@[simp] theorem latchSend_eNbits (n : Nat) (v : Value) (s : State) : (latchSend n v s).eNbits = n := rfl
@[simp] theorem latchSend_eValue (n : Nat) (v : Value) (s : State) : (latchSend n v s).eValue = v := rfl
@[simp] theorem latchSend_eIdx (n : Nat) (v : Value) (s : State) : (latchSend n v s).eIdx = n - 1 := rfl
@[simp] theorem latchSend_carrier (n : Nat) (v : Value) (s : State) : (latchSend n v s).carrier = s.carrier := rfl
@[simp] theorem latchSend_dPhase (n : Nat) (v : Value) (s : State) : (latchSend n v s).dPhase = s.dPhase := rfl
@[simp] theorem latchSend_dOffset (n : Nat) (v : Value) (s : State) : (latchSend n v s).dOffset = s.dOffset := rfl
@[simp] theorem latchSend_dNbits (n : Nat) (v : Value) (s : State) : (latchSend n v s).dNbits = s.dNbits := rfl
@[simp] theorem latchSend_dData (n : Nat) (v : Value) (s : State) : (latchSend n v s).dData = s.dData := rfl
@[simp] theorem latchSend_dI (n : Nat) (v : Value) (s : State) : (latchSend n v s).dI = s.dI := rfl
@[simp] theorem latchSend_rStatus (n : Nat) (v : Value) (s : State) : (latchSend n v s).rStatus = s.rStatus := rfl
@[simp] theorem latchSend_rErr (n : Nat) (v : Value) (s : State) : (latchSend n v s).rErr = s.rErr := rfl
@[simp] theorem latchSend_rBitCount (n : Nat) (v : Value) (s : State) : (latchSend n v s).rBitCount = s.rBitCount := rfl
@[simp] theorem latchSend_rValue (n : Nat) (v : Value) (s : State) : (latchSend n v s).rValue = s.rValue := rfl
@[simp] theorem latchSend_rProto (n : Nat) (v : Value) (s : State) : (latchSend n v s).rProto = s.rProto := rfl
@[simp] theorem latchSend_tx (n : Nat) (v : Value) (s : State) : (latchSend n v s).tx = s.tx := rfl
@[simp] theorem latchSend_raw (n : Nat) (v : Value) (s : State) : (latchSend n v s).raw = s.raw := rfl
@[simp] theorem latchSend_cmd (n : Nat) (v : Value) (s : State) : (latchSend n v s).cmd = s.cmd := rfl
@[simp] theorem latchSend_turn (n : Nat) (v : Value) (s : State) : (latchSend n v s).turn = s.turn := rfl
@[simp] theorem latchSend_tick (n : Nat) (v : Value) (s : State) : (latchSend n v s).tick = s.tick := rfl
@[simp] theorem latchSend_matcher (n : Nat) (v : Value) (s : State) : (latchSend n v s).matcher = s.matcher := rfl

@[simp] theorem startDecode_ePhase (s : State) : (startDecode s).ePhase = s.ePhase := rfl
@[simp] theorem startDecode_eNbits (s : State) : (startDecode s).eNbits = s.eNbits := rfl
@[simp] theorem startDecode_eValue (s : State) : (startDecode s).eValue = s.eValue := rfl
@[simp] theorem startDecode_eIdx (s : State) : (startDecode s).eIdx = s.eIdx := rfl
@[simp] theorem startDecode_carrier (s : State) : (startDecode s).carrier = s.carrier := rfl
@[simp] theorem startDecode_dPhase (s : State) : (startDecode s).dPhase = .hmark := rfl
@[simp] theorem startDecode_dOffset (s : State) : (startDecode s).dOffset = 1 := rfl
@[simp] theorem startDecode_dNbits (s : State) : (startDecode s).dNbits = s.dNbits := rfl
@[simp] theorem startDecode_dData (s : State) : (startDecode s).dData = 0#32 := rfl
@[simp] theorem startDecode_dI (s : State) : (startDecode s).dI = 0 := rfl
@[simp] theorem startDecode_rStatus (s : State) : (startDecode s).rStatus = .none := rfl
@[simp] theorem startDecode_rErr (s : State) : (startDecode s).rErr = 0#2 := rfl
@[simp] theorem startDecode_rBitCount (s : State) : (startDecode s).rBitCount = none := rfl
@[simp] theorem startDecode_rValue (s : State) : (startDecode s).rValue = none := rfl
@[simp] theorem startDecode_rProto (s : State) : (startDecode s).rProto = none := rfl
@[simp] theorem startDecode_tx (s : State) : (startDecode s).tx = s.tx := rfl
@[simp] theorem startDecode_raw (s : State) : (startDecode s).raw = s.raw := rfl
@[simp] theorem startDecode_cmd (s : State) : (startDecode s).cmd = s.cmd := rfl
@[simp] theorem startDecode_turn (s : State) : (startDecode s).turn = s.turn := rfl
@[simp] theorem startDecode_tick (s : State) : (startDecode s).tick = s.tick := rfl
@[simp] theorem startDecode_matcher (s : State) : (startDecode s).matcher = s.matcher := rfl

@[simp] theorem advance_ePhase (s : State) : (advance s).ePhase = s.ePhase := rfl
@[simp] theorem advance_eNbits (s : State) : (advance s).eNbits = s.eNbits := rfl
@[simp] theorem advance_eValue (s : State) : (advance s).eValue = s.eValue := rfl
@[simp] theorem advance_eIdx (s : State) : (advance s).eIdx = s.eIdx := rfl
@[simp] theorem advance_carrier (s : State) : (advance s).carrier = s.carrier := rfl
@[simp] theorem advance_dPhase (s : State) : (advance s).dPhase = s.dPhase := rfl
@[simp] theorem advance_dOffset (s : State) : (advance s).dOffset = s.dOffset := rfl
@[simp] theorem advance_dNbits (s : State) : (advance s).dNbits = s.dNbits := rfl
@[simp] theorem advance_dData (s : State) : (advance s).dData = s.dData := rfl
@[simp] theorem advance_dI (s : State) : (advance s).dI = s.dI := rfl
@[simp] theorem advance_rStatus (s : State) : (advance s).rStatus = s.rStatus := rfl
@[simp] theorem advance_rErr (s : State) : (advance s).rErr = s.rErr := rfl
@[simp] theorem advance_rBitCount (s : State) : (advance s).rBitCount = s.rBitCount := rfl
@[simp] theorem advance_rValue (s : State) : (advance s).rValue = s.rValue := rfl
@[simp] theorem advance_rProto (s : State) : (advance s).rProto = s.rProto := rfl
@[simp] theorem advance_tx (s : State) : (advance s).tx = s.tx := rfl
@[simp] theorem advance_raw (s : State) : (advance s).raw = s.raw := rfl
@[simp] theorem advance_cmd (s : State) : (advance s).cmd = s.cmd.tail := rfl
@[simp] theorem advance_turn (s : State) : (advance s).turn = Config.nextAgent s.tick := rfl
@[simp] theorem advance_tick (s : State) : (advance s).tick = s.tick + 1 := rfl
@[simp] theorem advance_matcher (s : State) : (advance s).matcher = s.matcher := rfl

@[simp] theorem inputReset_ePhase (s : State) : (inputReset s).ePhase = State.reset.ePhase := rfl
@[simp] theorem inputReset_eNbits (s : State) : (inputReset s).eNbits = State.reset.eNbits := rfl
@[simp] theorem inputReset_eValue (s : State) : (inputReset s).eValue = State.reset.eValue := rfl
@[simp] theorem inputReset_eIdx (s : State) : (inputReset s).eIdx = State.reset.eIdx := rfl
@[simp] theorem inputReset_carrier (s : State) : (inputReset s).carrier = State.reset.carrier := rfl
@[simp] theorem inputReset_dPhase (s : State) : (inputReset s).dPhase = State.reset.dPhase := rfl
@[simp] theorem inputReset_dOffset (s : State) : (inputReset s).dOffset = State.reset.dOffset := rfl
@[simp] theorem inputReset_dNbits (s : State) : (inputReset s).dNbits = State.reset.dNbits := rfl
@[simp] theorem inputReset_dData (s : State) : (inputReset s).dData = State.reset.dData := rfl
@[simp] theorem inputReset_dI (s : State) : (inputReset s).dI = State.reset.dI := rfl
@[simp] theorem inputReset_rStatus (s : State) : (inputReset s).rStatus = State.reset.rStatus := rfl
@[simp] theorem inputReset_rErr (s : State) : (inputReset s).rErr = State.reset.rErr := rfl
@[simp] theorem inputReset_rBitCount (s : State) : (inputReset s).rBitCount = State.reset.rBitCount := rfl
@[simp] theorem inputReset_rValue (s : State) : (inputReset s).rValue = State.reset.rValue := rfl
@[simp] theorem inputReset_rProto (s : State) : (inputReset s).rProto = State.reset.rProto := rfl
@[simp] theorem inputReset_tx (s : State) : (inputReset s).tx = State.reset.tx := rfl
@[simp] theorem inputReset_raw (s : State) : (inputReset s).raw = s.raw := rfl
@[simp] theorem inputReset_cmd (s : State) : (inputReset s).cmd = State.reset.cmd := rfl
@[simp] theorem inputReset_turn (s : State) : (inputReset s).turn = s.turn := rfl
@[simp] theorem inputReset_tick (s : State) : (inputReset s).tick = s.tick := rfl
@[simp] theorem inputReset_matcher (s : State) : (inputReset s).matcher = s.matcher := rfl

@[simp] theorem advance_matchDur (s : State) : (advance s).matchDur = s.matchDur := rfl

/-! ### Issuing a command -/

@[simp] theorem hostIssue_ePhase (w : CmdWord) (s : State) : (hostIssue w s).ePhase = s.ePhase := rfl
@[simp] theorem hostIssue_eNbits (w : CmdWord) (s : State) : (hostIssue w s).eNbits = s.eNbits := rfl
@[simp] theorem hostIssue_eValue (w : CmdWord) (s : State) : (hostIssue w s).eValue = s.eValue := rfl
@[simp] theorem hostIssue_eIdx (w : CmdWord) (s : State) : (hostIssue w s).eIdx = s.eIdx := rfl
@[simp] theorem hostIssue_carrier (w : CmdWord) (s : State) : (hostIssue w s).carrier = s.carrier := rfl
@[simp] theorem hostIssue_dPhase (w : CmdWord) (s : State) : (hostIssue w s).dPhase = s.dPhase := rfl
@[simp] theorem hostIssue_dOffset (w : CmdWord) (s : State) : (hostIssue w s).dOffset = s.dOffset := rfl
@[simp] theorem hostIssue_dNbits (w : CmdWord) (s : State) : (hostIssue w s).dNbits = s.dNbits := rfl
@[simp] theorem hostIssue_dData (w : CmdWord) (s : State) : (hostIssue w s).dData = s.dData := rfl
@[simp] theorem hostIssue_dI (w : CmdWord) (s : State) : (hostIssue w s).dI = s.dI := rfl
@[simp] theorem hostIssue_rStatus (w : CmdWord) (s : State) : (hostIssue w s).rStatus = s.rStatus := rfl
@[simp] theorem hostIssue_rErr (w : CmdWord) (s : State) : (hostIssue w s).rErr = s.rErr := rfl
@[simp] theorem hostIssue_rBitCount (w : CmdWord) (s : State) : (hostIssue w s).rBitCount = s.rBitCount := rfl
@[simp] theorem hostIssue_rValue (w : CmdWord) (s : State) : (hostIssue w s).rValue = s.rValue := rfl
@[simp] theorem hostIssue_rProto (w : CmdWord) (s : State) : (hostIssue w s).rProto = s.rProto := rfl
@[simp] theorem hostIssue_tx (w : CmdWord) (s : State) : (hostIssue w s).tx = s.tx := rfl
@[simp] theorem hostIssue_raw (w : CmdWord) (s : State) : (hostIssue w s).raw = s.raw := rfl
@[simp] theorem hostIssue_cmd (w : CmdWord) (s : State) : (hostIssue w s).cmd = s.cmd ++ [w] := rfl
@[simp] theorem hostIssue_turn (w : CmdWord) (s : State) : (hostIssue w s).turn = s.turn := rfl
@[simp] theorem hostIssue_tick (w : CmdWord) (s : State) : (hostIssue w s).tick = s.tick := rfl
@[simp] theorem hostIssue_matcher (w : CmdWord) (s : State) : (hostIssue w s).matcher = s.matcher := rfl

end Sys2Proof.Machine
end

