-- ==== Sys2Proof/Laws/Ops.lean ====
section
/-! SUPPORT. One lemma for each shared operation that says everything it can do, and the cases of each meaning built on one. -/

namespace Sys2Proof.Machine

/-! ### Operands -/

@[simp] theorem withOperand_ok {α : Type} (a : α) (k : α → Result) : withOperand (.ok a) k = k a := rfl

@[simp] theorem withOperand_error {α : Type} (f : Fault) (k : α → Result) : withOperand (.error f) k = .fault f := rfl

theorem memRead_of_some {s : State} {i : Nat} {d : Duration} (h : s.raw[i]? = some d) : memRead s i = .ok d := by
  simp [memRead, h]

theorem memRead_of_none {s : State} {i : Nat} (h : s.raw.length ≤ i) : memRead s i = .error .captureRange := by
  simp [memRead, List.getElem?_eq_none h]

theorem bitOperand_of_lt {s : State} (h : s.eIdx < 32) : bitOperand s = .ok (s.eValue.getLsbD s.eIdx) := by
  simp [bitOperand, h]

theorem bitOperand_of_ge {s : State} (h : 32 ≤ s.eIdx) : bitOperand s = .error .bitIndexRange := by
  simp [bitOperand, Nat.not_lt.mpr h]

@[simp] theorem eBusy_iff {s : State} : eBusy s = true ↔ s.ePhase ≠ .idle := by simp [eBusy]

@[simp] theorem dBusy_iff {s : State} : dBusy s = true ↔ s.dPhase ≠ .idle := by simp [dBusy]

theorem spaceOf_eq (b : Bool) : spaceOf b = if b then 1600 else 550 := rfl

theorem shiftIn_eq (d : Value) (b : Bool) : shiftIn d b = (d <<< 1) ||| (if b then 1#32 else 0#32) := by
  cases b <;> rfl

theorem classify_eq_one {mt : Duration → Duration → Bool} {d : Duration} (h : mt d 1600 = true) :
    classify mt d = some true := by
  simp [classify, h]

theorem classify_eq_zero {mt : Duration → Duration → Bool} {d : Duration} (h1 : mt d 1600 = false)
    (h0 : mt d 550 = true) : classify mt d = some false := by
  simp [classify, h1, h0]

theorem classify_eq_none {mt : Duration → Duration → Bool} {d : Duration} (h1 : mt d 1600 = false)
    (h0 : mt d 550 = false) : classify mt d = none := by
  simp [classify, h1, h0]

/-! ### A check of one element -/

theorem checkElement_pass {s : State} {e m : Duration} {kind : RejectKind} {p : DPhase}
    (h : s.raw[s.dOffset]? = some m) (hm : s.matchDur m e = true) :
    checkElement e kind p s = .next { advanceCursor s with dPhase := p } := by
  simp [checkElement, cursorRead, memRead_of_some h, hm]

theorem checkElement_fail {s : State} {e m : Duration} {kind : RejectKind} {p : DPhase}
    (h : s.raw[s.dOffset]? = some m) (hm : s.matchDur m e = false) :
    checkElement e kind p s = .next (reject kind s) := by
  simp [checkElement, cursorRead, memRead_of_some h, hm]

theorem checkElement_range {s : State} {e : Duration} {kind : RejectKind} {p : DPhase} (h : s.raw.length ≤ s.dOffset) :
    checkElement e kind p s = .fault .captureRange := by
  simp [checkElement, cursorRead, memRead_of_none h]

/-- What a check that answers can have done. -/
theorem checkElement_cases {s t : State} {e : Duration} {kind : RejectKind} {p : DPhase}
    (h : checkElement e kind p s = .next t) :
    ∃ m, s.raw[s.dOffset]? = some m ∧
      ((s.matchDur m e = true ∧ t = { advanceCursor s with dPhase := p }) ∨
        (s.matchDur m e = false ∧ t = reject kind s)) := by
  cases hr : s.raw[s.dOffset]? with
  | none =>
    rw [checkElement_range (by simpa using hr)] at h
    cases h
  | some m =>
    refine ⟨m, rfl, ?_⟩
    cases hm : s.matchDur m e with
    | true => rw [checkElement_pass hr hm] at h; cases h; exact .inl ⟨rfl, rfl⟩
    | false => rw [checkElement_fail hr hm] at h; cases h; exact .inr ⟨rfl, rfl⟩

/-! ### The meanings that branch -/

theorem startSend_cases {n : Nat} {v : Value} {s t : State} (h : startSend n v s = .next t) :
    (1 ≤ n ∧ n ≤ 32) ∧ t = latchSend n v s := by
  unfold startSend at h
  split at h
  · rename_i hn; cases h; exact ⟨nbitsLegal_iff.mp hn, rfl⟩
  · cases h

theorem execSend_cases {n : Nat} {v : Value} {s t : State} (h : execSend n v s = .next t) :
    s.ePhase = .idle ∧ (1 ≤ n ∧ n ≤ 32) ∧ t = latchSend n v s := by
  unfold execSend at h
  split at h
  · cases h
  · rename_i hb
    exact ⟨by simpa using hb, startSend_cases h⟩

theorem execDecode_cases {s t : State} (h : execDecode s = .next t) : s.dPhase = .idle ∧ t = startDecode s := by
  unfold execDecode at h
  split at h
  · cases h
  · rename_i hb; cases h; exact ⟨by simpa using hb, rfl⟩

theorem execEBspace_cases {s t : State} (h : execEBspace s = .next t) :
    s.eIdx < 32 ∧
      ((s.eIdx = 0 ∧ t = { drive .space (spaceOf (s.eValue.getLsbD s.eIdx)) s with ePhase := .term }) ∨
        (s.eIdx ≠ 0 ∧
          t = { drive .space (spaceOf (s.eValue.getLsbD s.eIdx)) s with eIdx := s.eIdx - 1, ePhase := .bmark })) := by
  by_cases hi : s.eIdx < 32
  · refine ⟨hi, ?_⟩
    simp only [execEBspace, bitOperand_of_lt hi, withOperand_ok] at h
    split at h
    · rename_i h0; cases h; exact .inl ⟨h0, rfl⟩
    · rename_i h0; cases h; exact .inr ⟨h0, rfl⟩
  · simp [execEBspace, bitOperand_of_ge (Nat.not_lt.mp hi)] at h

theorem execDHmark_cases {s t : State} (h : execDHmark s = .next t) :
    (s.raw.length < 3 ∧ t = reject .headerMismatch s) ∨
      (3 ≤ s.raw.length ∧ checkElement 4400 .headerMismatch .len s = .next t) := by
  unfold execDHmark at h
  split at h
  · rename_i hl; cases h; exact .inl ⟨hl, rfl⟩
  · rename_i hl; exact .inr ⟨Nat.not_lt.mp hl, h⟩

theorem execDLen_cases {s t : State} (h : execDLen s = .next t) :
    3 ≤ s.raw.length ∧
      ((apparentCount s.raw.length ∈ [56, 72, 80] ∧
          t = { s with dNbits := apparentCount s.raw.length, dPhase := .hspace }) ∨
        (apparentCount s.raw.length ∉ [56, 72, 80] ∧
          t = reject .unsupportedLength { s with dNbits := apparentCount s.raw.length })) := by
  unfold execDLen at h
  split at h
  · cases h
  · rename_i hl
    refine ⟨Nat.not_lt.mp hl, ?_⟩
    split at h
    · rename_i hm; cases h; exact .inl ⟨hm, rfl⟩
    · rename_i hm; cases h; exact .inr ⟨hm, rfl⟩

theorem acceptBit_eq (b : Bool) (s : State) :
    acceptBit b s =
      if s.dI + 1 = 32 then accept { advanceCursor s with dData := shiftIn s.dData b, dI := s.dI + 1 }
      else { advanceCursor s with dData := shiftIn s.dData b, dI := s.dI + 1, dPhase := .bmark } := rfl

theorem execDBspace_of_some {s : State} {d : Duration} (h : s.raw[s.dOffset]? = some d) :
    execDBspace s =
      (match classify s.matchDur d with
        | some b => .next (acceptBit b s)
        | none => .next (reject .bitMismatch s)) := by
  simp only [execDBspace, cursorRead, memRead_of_some h, withOperand_ok] <;> cases classify s.matchDur d <;> rfl

theorem execDBspace_cases {s t : State} (h : execDBspace s = .next t) :
    ∃ d, s.raw[s.dOffset]? = some d ∧
      ((∃ b, classify s.matchDur d = some b ∧ t = acceptBit b s) ∨
        (classify s.matchDur d = none ∧ t = reject .bitMismatch s)) := by
  cases hr : s.raw[s.dOffset]? with
  | none => simp [execDBspace, cursorRead, memRead, hr] at h
  | some d =>
    refine ⟨d, rfl, ?_⟩
    rw [execDBspace_of_some hr] at h
    cases hc : classify s.matchDur d with
    | none => simp only [hc] at h; cases h; exact .inr ⟨rfl, rfl⟩
    | some b => simp only [hc] at h; cases h; exact .inl ⟨b, rfl, rfl⟩

end Sys2Proof.Machine
end

