-- ==== Sys2Proof/Laws/PerInstr.lean ====
section
/-! SUPPORT. The family `EncodeAgent`: the selector an instruction is encoded with addresses the agent that runs it. -/

namespace Sys2Proof.Laws.EncodeAgent

/-- The encoding of `i` addresses the agent that runs `i` (`00_scope.md` R6, `30_encoding.md` R75 to R77). -/
def Statement (i : Instr) : Prop := (encode i).agent = i.agent

theorem send (n : Nat) (v : Value) : Statement (.send n v) := by
  simp only [Statement, encode, Select.agent, cmdOp_sendWord, Instr.agent, if_true]

theorem decode : Statement .decode := rfl

theorem eStart (n : Nat) (v : Value) : Statement (.eStart n v) := rfl

theorem eHmark : Statement .eHmark := rfl

theorem eHspace : Statement .eHspace := rfl

theorem eBmark : Statement .eBmark := rfl

theorem eBspace : Statement .eBspace := rfl

theorem eTerm : Statement .eTerm := rfl

theorem eOff : Statement .eOff := rfl

theorem dStart : Statement .dStart := rfl

theorem dHmark : Statement .dHmark := rfl

theorem dLen : Statement .dLen := rfl

theorem dHspace : Statement .dHspace := rfl

theorem dBmark : Statement .dBmark := rfl

theorem dBspace : Statement .dBspace := rfl

theorem dAccept : Statement .dAccept := rfl

theorem dReject (kind : RejectKind) : Statement (.dReject kind) := rfl

end Sys2Proof.Laws.EncodeAgent
end

