-- ==== Sys2Proof/Laws/Step.lean ====
section
/-! SUPPORT. What the fetch selects, and everything a step can do, once. -/

namespace Sys2Proof.Machine

/-- The micro-operation a busy phase of ENC selects (R76). -/
def encOp : EPhase → Option Instr
  | .idle => none
  | .hmark => some .eHmark
  | .hspace => some .eHspace
  | .bmark => some .eBmark
  | .bspace => some .eBspace
  | .term => some .eTerm
  | .off => some .eOff

/-- The micro-operation a busy phase of DEC selects (R77). -/
def decOp : DPhase → Option Instr
  | .idle => none
  | .hmark => some .dHmark
  | .len => some .dLen
  | .hspace => some .dHspace
  | .bmark => some .dBmark
  | .bspace => some .dBspace

theorem decode_encPhase {p : EPhase} {i : Instr} : decode (.enc p.code none) = .ok i ↔ encOp p = some i := by
  cases p <;> simp [decode, EPhase.code, encOp, decodeEStart]

theorem decode_decPhase {p : DPhase} {i : Instr} : decode (.dec p.code none) = .ok i ↔ decOp p = some i := by
  cases p <;> simp [decode, DPhase.code, decOp, decodeDStart]

theorem fetch_cmd {s : State} {w : CmdWord} {ws : List CmdWord} (h : s.cmd = w :: ws) : fetch s = some (decodeCmd w) := by
  simp [fetch, select, h, decode]

theorem encOp_isSome {p : EPhase} (h : p ≠ .idle) : ∃ i, encOp p = some i := by
  cases p <;> simp_all [encOp]

theorem decOp_isSome {p : DPhase} (h : p ≠ .idle) : ∃ i, decOp p = some i := by
  cases p <;> simp_all [decOp]

theorem fetch_enc {s : State} (hc : s.cmd = []) (he : s.ePhase ≠ .idle) (ht : s.dPhase = .idle ∨ s.turn = .enc) :
    fetch s = encOp s.ePhase := by
  obtain ⟨i, hi⟩ := encOp_isSome he
  have hm : mover s = some .enc := by
    unfold mover
    rcases ht with ht | ht <;> cases hd : s.dPhase <;> simp_all [eBusy, dBusy]
  simp [fetch, select, hc, hm, decode_encPhase.mpr hi, hi]

theorem fetch_dec {s : State} (hc : s.cmd = []) (hd : s.dPhase ≠ .idle) (ht : s.ePhase = .idle ∨ s.turn = .dec) :
    fetch s = decOp s.dPhase := by
  obtain ⟨i, hi⟩ := decOp_isSome hd
  have hm : mover s = some .dec := by
    unfold mover
    rcases ht with ht | ht <;> cases he : s.ePhase <;> simp_all [eBusy, dBusy]
  simp [fetch, select, hc, hm, decode_decPhase.mpr hi, hi]

theorem fetch_idle {s : State} (hc : s.cmd = []) (he : s.ePhase = .idle) (hd : s.dPhase = .idle) : fetch s = none := by
  simp [fetch, select, mover, hc, he, hd, eBusy, dBusy]

/-- Which of the four things a step does: the issued command, a micro-operation of ENC, one of DEC, or waiting. -/
theorem step_shape (s : State) :
    (∃ w ws, s.cmd = w :: ws ∧ step s = exec (decodeCmd w) (advance s)) ∨
    (∃ i, s.cmd = [] ∧ (s.dPhase = .idle ∨ s.turn = .enc) ∧ encOp s.ePhase = some i ∧ step s = exec i (advance s)) ∨
    (∃ i, s.cmd = [] ∧ (s.ePhase = .idle ∨ s.turn = .dec) ∧ decOp s.dPhase = some i ∧ step s = exec i (advance s)) ∨
    (s.cmd = [] ∧ s.ePhase = .idle ∧ s.dPhase = .idle ∧ step s = .next s) := by
  cases hc : s.cmd with
  | cons w ws => exact .inl ⟨w, ws, rfl, by simp [step, fetch_cmd hc]⟩
  | nil =>
    by_cases he : s.ePhase = .idle
    · by_cases hd : s.dPhase = .idle
      · exact .inr (.inr (.inr ⟨rfl, he, hd, by simp [step, fetch_idle hc he hd]⟩))
      · obtain ⟨i, hi⟩ := decOp_isSome hd
        exact .inr (.inr (.inl ⟨i, rfl, .inl he, hi, by simp [step, fetch_dec hc hd (.inl he), hi]⟩))
    · obtain ⟨i, hi⟩ := encOp_isSome he
      by_cases hd : s.dPhase = .idle
      · exact .inr (.inl ⟨i, rfl, .inl hd, hi, by simp [step, fetch_enc hc he (.inl hd), hi]⟩)
      · cases ht : s.turn with
        | enc => exact .inr (.inl ⟨i, rfl, .inr rfl, hi, by simp [step, fetch_enc hc he (.inr ht), hi]⟩)
        | dec =>
          obtain ⟨j, hj⟩ := decOp_isSome hd
          exact .inr (.inr (.inl ⟨j, rfl, .inr rfl, hj, by simp [step, fetch_dec hc hd (.inr ht), hj]⟩))

/-- Everything a step that answers can have done. -/
theorem step_cases {s t : State} (h : step s = .next t) :
    (∃ w ws, s.cmd = w :: ws ∧ exec (decodeCmd w) (advance s) = .next t) ∨
    (∃ i, s.cmd = [] ∧ encOp s.ePhase = some i ∧ exec i (advance s) = .next t) ∨
    (∃ i, s.cmd = [] ∧ decOp s.dPhase = some i ∧ exec i (advance s) = .next t) ∨
    (s.cmd = [] ∧ s.ePhase = .idle ∧ s.dPhase = .idle ∧ t = s) := by
  rcases step_shape s with ⟨w, ws, hc, hs⟩ | ⟨i, hc, -, hi, hs⟩ | ⟨i, hc, -, hi, hs⟩ | ⟨hc, he, hd, hs⟩
  · exact .inl ⟨w, ws, hc, hs ▸ h⟩
  · exact .inr (.inl ⟨i, hc, hi, hs ▸ h⟩)
  · exact .inr (.inr (.inl ⟨i, hc, hi, hs ▸ h⟩))
  · rw [hs] at h; cases h
    exact .inr (.inr (.inr ⟨hc, he, hd, rfl⟩))

/-! ### Runs -/

theorem runSteps_succ {k : Nat} {s u : State} (h : step s = .next u) : runSteps (k + 1) s = runSteps k u := by
  simp only [runSteps, h]

/-- A block at rest stays as it is. -/
theorem step_rest {s : State} (h : endOfRun s) : step s = .next s := by
  rw [step, fetch_idle h.1 h.2.1 h.2.2]

theorem runSteps_rest {s : State} (h : endOfRun s) (k : Nat) : runSteps k s = .next s := by
  induction k with
  | zero => rfl
  | succ k ih => rw [runSteps_succ (step_rest h), ih]

end Sys2Proof.Machine
end

