-- ==== Sys2Proof/Tests/Slice0.lean ====
section
/-! SUPPORT. Tests against the spec's own encodings and vectors (`30_encoding.md`, `95_test_vectors.md`), each a small theorem
on one step or one operation, and for every statement with hypotheses a witness that meets them. -/

open Sys2Proof Sys2Proof.Machine

namespace Sys2Proof.Tests

/-! ### Helpers -/

/-- The result is a next state with this property. -/
def nextWith (r : Result) (p : State → Bool) : Bool :=
  match r with
  | .next t => p t
  | .fault _ => false
  | .refused _ => false

/-- The refusal a result is. -/
def refusalOf (r : Result) : Option Refusal :=
  match r with
  | .refused x => some x
  | .next _ => none
  | .fault _ => none

/-- `Frame(g, bits)` of `95_test_vectors.md`: a gap, the header, a mark and a space for each bit, the terminator. -/
def frameBuf (g : Duration) (bits : List Bool) : List Duration :=
  [g, 4400, 4400] ++ bits.flatMap (fun b => [550, if b then 1600 else 550]) ++ [550]

/-- `B32`, the bits of `0xF20D03FC`, most-significant first. -/
def b32 : List Bool := (List.range 32).map fun k => Nat.testBit 0xF20D03FC (31 - k)

/-- `F72 = Frame(30000, B32 ++ Z(40))`, 148 elements. -/
def f72 : List Duration := frameBuf 30000 (b32 ++ List.replicate 40 false)

/-- A block just reset, built with the matcher `EXACT`. -/
def exact0 : State := { State.reset with matcher := .exact }

/-- A block that has had a word written to its `CMD`. -/
def issued (w : CmdWord) : State := { exact0 with cmd := [w] }

/-- ENC within vector E4, `SEND 3, 5`. -/
def e4 (p : EPhase) (idx : Nat) : State := { exact0 with ePhase := p, eNbits := 3, eValue := 5#32, eIdx := idx }

/-- DEC within vector H1, the matcher `EXACT` on `F72`. -/
def h1 (p : DPhase) (off i : Nat) (data : Value) : State :=
  { exact0 with raw := f72, dPhase := p, dOffset := off, dI := i, dData := data, dNbits := 72 }

/-- `s` with element `i` of the buffer replaced. -/
def withRaw (s : State) (i : Nat) (d : Duration) : State := { s with raw := s.raw.set i d }

/-! ### Well-formedness: each check refuses an ill-formed term -/

/-- A count that does not fit the 7-bit field (R75). -/
theorem test_wf_send : Instr.wellFormed (.send 128 0#32) = false ∧ Instr.wellFormed (.send 127 0#32) = true := by decide

/-- `E.START` is selected by a `SEND` that meets R100 only (R91). -/
theorem test_wf_eStart :
    Instr.wellFormed (.eStart 0 0#32) = false ∧ Instr.wellFormed (.eStart 33 0#32) = false ∧
      Instr.wellFormed (.eStart 1 0#32) = true ∧ Instr.wellFormed (.eStart 32 0#32) = true := by decide

/-! ### Decoding: words written out from the encodings of R75 to R77 -/

/-- `CMD40`: op 1, `nbits` 0000011, the value 5 (E4: `0x8300000005`). -/
theorem test_decode_send :
    decodeCmd 0b1000001100000000000000000000000000000101#40 = .send 3 5#32 := by decide

/-- `CMD40`: op 1, `nbits` 0100000, all value bits 1 (E8: `0xA0FFFFFFFF`). -/
theorem test_decode_send_all_ones :
    decodeCmd 0b1010000011111111111111111111111111111111#40 = .send 32 0xFFFFFFFF#32 := by decide

/-- `CMD40`: op 0; the other 39 bits are ignored (R75). -/
theorem test_decode_decode :
    decodeCmd 0b0000000000000000000000000000000000000000#40 = .decode ∧
      decodeCmd 0b0111111111111111111111111111111111111111#40 = .decode := by decide

/-- `ENC.phase` 000 to 111 (R76); 000 with the word of `SEND 3, 5` issued. -/
theorem test_decode_enc :
    decode (.enc 0b000#3 (some 0b1000001100000000000000000000000000000101#40)) = .ok (.eStart 3 5#32) ∧
    decode (.enc 0b001#3 none) = .ok .eHmark ∧ decode (.enc 0b010#3 none) = .ok .eHspace ∧
    decode (.enc 0b011#3 none) = .ok .eBmark ∧ decode (.enc 0b100#3 none) = .ok .eBspace ∧
    decode (.enc 0b101#3 none) = .ok .eTerm ∧ decode (.enc 0b110#3 none) = .ok .eOff ∧
    decode (.enc 0b111#3 none) = .error .reservedPhase := by decide

/-- `DEC.phase` 000 to 111 (R77); 000 with the word of `DECODE` issued. -/
theorem test_decode_dec :
    decode (.dec 0b000#3 (some 0b0000000000000000000000000000000000000000#40)) = .ok .dStart ∧
    decode (.dec 0b001#3 none) = .ok .dHmark ∧ decode (.dec 0b010#3 none) = .ok .dLen ∧
    decode (.dec 0b011#3 none) = .ok .dHspace ∧ decode (.dec 0b100#3 none) = .ok .dBmark ∧
    decode (.dec 0b101#3 none) = .ok .dBspace ∧ decode (.dec 0b110#3 none) = .error .reservedPhase ∧
    decode (.dec 0b111#3 none) = .error .reservedPhase := by decide

/-- `DEC.tail`: 101 when the last check passed, the raising phase when a check failed (R77, R144). -/
theorem test_decode_tail :
    decode (.tail 0b101#3 true) = .ok .dAccept ∧
    decode (.tail 0b001#3 false) = .ok (.dReject .headerMismatch) ∧
    decode (.tail 0b010#3 false) = .ok (.dReject .unsupportedLength) ∧
    decode (.tail 0b011#3 false) = .ok (.dReject .headerMismatch) ∧
    decode (.tail 0b100#3 false) = .ok (.dReject .bitMismatch) ∧
    decode (.tail 0b101#3 false) = .ok (.dReject .bitMismatch) ∧
    decode (.tail 0b010#3 true) = .error .noSuchTail := by decide

/-- The words of the vectors E3, E6, E9 come out of the encoder. -/
theorem test_encode_send :
    encode (.send 2 2#32) = .cmd 0x8200000002#40 ∧ encode (.send 4 0xFFFFFFF5#32) = .cmd 0x84FFFFFFF5#40 ∧
      encode (.send 32 0xF20D03FC#32) = .cmd 0xA0F20D03FC#40 := by decide

/-- The opcode-table words of both commands and of an ENC phase, and that the step runs them first after reset. -/
theorem test_table_words :
    decodeTableWord 40 0x8100000001 = some (.send 1 1#32) ∧ decodeTableWord 40 0 = some .decode ∧
    decodeTableWord 8 4 = some .eBspace ∧ decodeTableWord 8 0 = some .dStart ∧ decodeTableWord 8 7 = none ∧
    fetch (State.reset.withFetchWord 40 0x8100000001) = some (.send 1 1#32) ∧
    fetch (State.reset.withFetchWord 8 4) = some .eBspace := by decide

/-! ### The encoder, by the trace of E4 -/

/-- Step 1 of the trace: the word in `CMD` starts the frame and is consumed. -/
theorem test_send : nextWith (step (issued 0x8300000005#40)) (fun t =>
    decide (t.ePhase = .hmark ∧ t.eIdx = 2 ∧ t.eNbits = 3 ∧ t.eValue = 5#32 ∧ t.tx = [] ∧ t.cmd = [])) = true := by decide

/-- E10, E11 and E12 are refused. -/
theorem test_send_refused :
    refusalOf (step (issued 0x8000000000#40)) = some .nbitsOutOfRange ∧
    refusalOf (step (issued 0xA100000000#40)) = some .nbitsOutOfRange ∧
    refusalOf (step { issued 0x8100000001#40 with ePhase := .term }) = some .encBusy := by decide

/-- R91: `nbits = 1` gives `E_IDX = 0`; `nbits = W_ENC` gives `W_ENC - 1`. -/
theorem test_eStart :
    nextWith (exec (.eStart 1 1#32) exact0) (fun t => decide (t.eIdx = 0 ∧ t.ePhase = .hmark)) = true ∧
    nextWith (exec (.eStart 32 0xF20D03FC#32) exact0) (fun t => decide (t.eIdx = 31 ∧ t.eValue = 0xF20D03FC#32)) = true := by
  decide

/-- Step 2 of the trace. -/
theorem test_eHmark : nextWith (step (e4 .hmark 2)) (fun t =>
    decide (t.tx = [(.mark, 4400)] ∧ t.ePhase = .hspace ∧ t.eIdx = 2)) = true := by decide

/-- Step 3 of the trace. -/
theorem test_eHspace : nextWith (step (e4 .hspace 2)) (fun t =>
    decide (t.tx = [(.space, 4400)] ∧ t.ePhase = .bmark ∧ t.eIdx = 2 ∧ t.carrier = false)) = true := by decide

/-- Step 4 of the trace. -/
theorem test_eBmark : nextWith (step (e4 .bmark 2)) (fun t =>
    decide (t.tx = [(.mark, 550)] ∧ t.ePhase = .bspace ∧ t.eIdx = 2)) = true := by decide

/-- Steps 5 and 7 of the trace: `value[2]` = 1, `value[1]` = 0. -/
theorem test_eBspace :
    nextWith (step (e4 .bspace 2)) (fun t => decide (t.tx = [(.space, 1600)] ∧ t.ePhase = .bmark ∧ t.eIdx = 1)) = true ∧
    nextWith (step (e4 .bspace 1)) (fun t => decide (t.tx = [(.space, 550)] ∧ t.ePhase = .bmark ∧ t.eIdx = 0)) = true := by
  decide

/-- Step 9 of the trace: index 0 leaves for the terminator and stays 0. -/
theorem test_eBspace_last : nextWith (step (e4 .bspace 0)) (fun t =>
    decide (t.tx = [(.space, 1600)] ∧ t.ePhase = .term ∧ t.eIdx = 0)) = true := by decide

/-- Step 10 of the trace. -/
theorem test_eTerm : nextWith (step (e4 .term 0)) (fun t =>
    decide (t.tx = [(.mark, 550)] ∧ t.ePhase = .off)) = true := by decide

/-- Step 11 of the trace. -/
theorem test_eOff : nextWith (step (e4 .off 0)) (fun t =>
    decide (t.tx = [(.space, 0)] ∧ t.ePhase = .idle ∧ t.carrier = false)) = true := by decide

/-! ### The decoder, by the trace of H1 and the vectors L, H, Q -/

/-- Step 1 of the trace: the word in `CMD` starts the pass and is consumed. -/
theorem test_decode : nextWith (step { issued 0#40 with raw := f72, dOffset := 9, dI := 7, rErr := 3#2, rStatus := .rejected })
    (fun t => decide (t.dPhase = .hmark ∧ t.dOffset = 1 ∧ t.dI = 0 ∧ t.dData = 0#32 ∧ t.rStatus = .none ∧ t.rErr = 0#2 ∧
      t.cmd = [])) = true := by decide

/-- P5: `SEND 8, 0xA5` and `DECODE` issued together are both taken, one step after the other. -/
theorem test_issued_together :
    nextWith (step (hostIssue 0#40 (hostIssue 0x88000000A5#40 exact0))) (fun s =>
      nextWith (step s) (fun t => decide (t.ePhase = .hmark ∧ t.eNbits = 8 ∧ t.eValue = 0xA5#32 ∧ t.dPhase = .hmark ∧
        t.dOffset = 1 ∧ t.cmd = []))) = true := by decide

/-- R110: a `DECODE` to a busy DEC is refused. -/
theorem test_decode_refused : refusalOf (step { issued 0#40 with dPhase := .bmark }) = some .decBusy := by decide

/-- R111, its tail alone: the old value is gone. -/
theorem test_dStart : nextWith (exec .dStart { exact0 with rValue := some 5#32, rStatus := .accepted })
    (fun t => decide (t.rValue = none ∧ t.rStatus = .none ∧ t.dPhase = .hmark)) = true := by decide

/-- Step 2 of the trace. -/
theorem test_dHmark : nextWith (step (h1 .hmark 1 0 0#32)) (fun t =>
    decide (t.dOffset = 2 ∧ t.dPhase = .len)) = true := by decide +kernel

/-- L3: a buffer of 2 elements is too short; L5: `RAW[1]` = 1 is no header mark. -/
theorem test_dHmark_rejects :
    nextWith (step { h1 .hmark 1 0 0#32 with raw := [0, 4400] }) (fun t =>
      decide (t.rStatus = .rejected ∧ t.rErr = 1#2 ∧ t.dPhase = .idle ∧ t.dOffset = 1)) = true ∧
    nextWith (step { h1 .hmark 1 0 0#32 with raw := [0, 1, 0] }) (fun t =>
      decide (t.rStatus = .rejected ∧ t.rErr = 1#2 ∧ t.dPhase = .idle)) = true := by decide

/-- Step 3 of the trace: 148 elements are 72 bits. -/
theorem test_dLen : nextWith (step { h1 .len 2 0 0#32 with dNbits := 0 }) (fun t =>
    decide (t.dNbits = 72 ∧ t.dPhase = .hspace ∧ t.dOffset = 2)) = true := by decide +kernel

/-- L4: 3 elements are 0 bits, an unsupported length; the count is written (R113) and the cursor has not moved. -/
theorem test_dLen_rejects : nextWith (step { h1 .len 2 0 0#32 with raw := [0, 4400, 0] }) (fun t =>
    decide (t.dNbits = 0 ∧ t.rErr = 2#2 ∧ t.rStatus = .rejected ∧ t.dPhase = .idle ∧ t.dOffset = 2)) = true := by decide

/-- Step 4 of the trace, and H3. -/
theorem test_dHspace :
    nextWith (step (h1 .hspace 2 0 0#32)) (fun t => decide (t.dOffset = 3 ∧ t.dPhase = .bmark)) = true ∧
    nextWith (step (withRaw (h1 .hspace 2 0 0#32) 2 1000)) (fun t =>
      decide (t.rErr = 1#2 ∧ t.dPhase = .idle ∧ t.dOffset = 2)) = true := by decide +kernel

/-- Step 5 of the trace, and Q4. -/
theorem test_dBmark :
    nextWith (step (h1 .bmark 3 0 0#32)) (fun t => decide (t.dOffset = 4 ∧ t.dPhase = .bspace ∧ t.dI = 0)) = true ∧
    nextWith (step (withRaw (h1 .bmark 3 0 0#32) 3 1)) (fun t => decide (t.rErr = 3#2 ∧ t.dPhase = .idle)) = true := by
  decide

/-- Step 14 of the trace: a 0 is shifted in. -/
theorem test_dBspace : nextWith (step (h1 .bspace 12 4 0xF#32)) (fun t =>
    decide (t.dOffset = 13 ∧ t.dI = 5 ∧ t.dData = 0x1E#32 ∧ t.dPhase = .bmark)) = true := by decide

/-- Step 68 of the trace: the last bit accepts in the same step. -/
theorem test_dBspace_accepts : nextWith (step (h1 .bspace 66 31 0x790681FE#32)) (fun t =>
    decide (t.dOffset = 67 ∧ t.dI = 32 ∧ t.dData = 0xF20D03FC#32 ∧ t.dPhase = .idle ∧ t.rStatus = .accepted ∧
      t.rBitCount = some 72 ∧ t.rValue = some 0xF20D03FC#32 ∧ t.rErr = 0#2)) = true := by decide

/-- R117, the tail alone. -/
theorem test_dAccept : nextWith (exec .dAccept (h1 .bspace 67 32 0xF20D03FC#32)) (fun t =>
    decide (t.rValue = some 0xF20D03FC#32 ∧ t.rBitCount = some 72 ∧ t.rProto.isSome = true)) = true := by decide

/-- R118, the tail alone. -/
theorem test_dReject : nextWith (exec (.dReject .bitMismatch) { h1 .bspace 4 0 0#32 with rValue := some 1#32 }) (fun t =>
    decide (t.rErr = 3#2 ∧ t.rValue = none ∧ t.dPhase = .idle ∧ t.dOffset = 4)) = true := by decide

/-! ### The functions, by the vectors -/

/-- The edges of the bands of `MATCH_PCT(25)` and the midpoint (V3, H11, H12, H13). -/
theorem test_classify_pct25 :
    [412, 413, 687, 688, 1075, 1199, 1200, 2000, 2001].map (classify (matchWith (.pct 25))) =
      [none, some false, some false, none, none, none, some true, some true, none] := by decide

/-- H17: under overlapping bands 1600 is tested first; `MATCH_PCT(40)` takes the midpoint for a 1 (V3). -/
theorem test_classify_overlap :
    classify (matchWith (.pct 70)) 550 = some true ∧ classify (matchWith (.pct 40)) 1075 = some true ∧
      classify (matchWith .exact) 1075 = none := by decide

/-- The arithmetic family: the length formula and the shift-accumulate. -/
theorem test_arithmetic :
    [3, 4, 5, 115, 116, 148, 164].map apparentCount = [0, 0, 1, 56, 56, 72, 80] ∧
    shiftIn 0#32 true = 1#32 ∧ shiftIn 0x7FFFFFFF#32 true = 0xFFFFFFFF#32 ∧ shiftIn 0x80000000#32 false = 0#32 ∧
    shiftIn 0xFFFFFFFF#32 false = 0xFFFFFFFE#32 := by decide

/-- E1 and E6: the events of a frame; the bits above `nbits` are ignored. -/
theorem test_encodeFrame :
    encodeFrame 1 1#32 =
      [(.mark, 4400), (.space, 4400), (.mark, 550), (.space, 1600), (.mark, 550), (.space, 0)] ∧
    pulseSeq (encodeFrame 4 0xFFFFFFF5#32) = [4400, 4400, 550, 550, 550, 1600, 550, 550, 550, 1600, 550] := by decide

/-- Total time-units of E5, E7, E8 and E9. -/
theorem test_mediumTime :
    mediumTime (encodeFrame 8 0xA5#32) = 22350 ∧ mediumTime (encodeFrame 32 0#32) = 44550 ∧
    mediumTime (encodeFrame 32 0xFFFFFFFF#32) = 78150 ∧ mediumTime (encodeFrame 32 0xF20D03FC#32) = 61350 := by
  decide +kernel

/-- H18: the first bit received is bit 31. -/
theorem test_decodeFrame_bit_order :
    decodeFrame (matchWith .exact)
        (frameBuf 1 ((List.replicate 16 [true, false]).flatten ++ List.replicate 24 true)) =
      .accepted 56 0xAAAAAAAA#32 Config.protoTag := by rfl

/-- V8: the settings byte, and 22 and 30 degrees in byte 5. -/
theorem test_payload :
    packByte6 0#3 3#2 0#3 = 0x18#8 ∧ packByte6 6#3 1#2 7#3 = 0xEE#8 ∧
    (Payload.mk 0 0 0 0 0 0x05 0x18 0 0).celsius = 22 ∧ (Payload.mk 0 0 0 0 0 0x0D 0x18 0 0).celsius = 30 := by decide

/-! ### Witnesses: the hypotheses of each statement are met, at the boundaries of its clauses -/

/-- DEC before its length check, with a buffer of this length. -/
def withLen (l : Nat) : State := { h1 .len 2 0 0#32 with raw := List.replicate l 550 }

/-- A state in which both agents run: ENC before its last bit, DEC before its last space. -/
def bothBusy (turn : Agent) : State :=
  { h1 .bspace 66 31 0x790681FE#32 with
    ePhase := .bspace
    eNbits := 1
    eValue := 1#32
    carrier := true
    tx := [(.mark, 4400), (.space, 4400), (.mark, 550)]
    turn := turn }

/-- A state at rest after an acceptance. -/
def accepted72 : State :=
  { exact0 with
    raw := f72
    rStatus := .accepted
    rBitCount := some 72
    rValue := some 0xF20D03FC#32
    rProto := some Config.protoTag }

theorem bothBusy_inv (turn : Agent) : BlockInv (bothBusy turn) := by
  cases turn <;> exact ⟨by decide, by decide +kernel, by decide, by decide⟩

theorem accepted72_inv : BlockInv accepted72 :=
  ⟨by decide, by decide, by simp [ResultInv, accepted72, exact0, State.reset] <;> decide, by decide⟩

theorem witness_DecodeOfEncodeIsIdentity :
    (Instr.send 0 0#32).wellFormed = true ∧ (Instr.send 127 5#32).wellFormed = true ∧
      (Instr.eStart 1 5#32).wellFormed = true ∧ (Instr.eStart 32 5#32).wellFormed = true ∧
      (Instr.dReject .bitMismatch).wellFormed = true := by decide

theorem witness_EveryCommandWordIsOneOfTheTwo :
    2 ^ 39 ≤ (0x8000000000#40).toNat ∧ 2 ^ 39 ≤ (0xFFFFFFFFFF#40).toNat ∧ (0x7FFFFFFFFF#40).toNat < 2 ^ 39 := by decide

theorem witness_SendWordsAreUnambiguous : decode (.cmd 0x8300000005#40) = .ok (.send 3 5#32) := by decide

theorem witness_StepRunsTheIssuedCommand :
    ((issued 0x8300000005#40).cmd = [0x8300000005#40] ∧ decode (.cmd 0x8300000005#40) = .ok (.send 3 5#32)) ∧
    ((issued 0#40).cmd = [0#40] ∧ decode (.cmd 0#40) = .ok .decode) := by decide

theorem witness_StepRunsTheSelectedMicroOperation :
    ((e4 .bspace 2).cmd = [] ∧ (e4 .bspace 2).ePhase ≠ .idle ∧ (e4 .bspace 2).dPhase = .idle ∧
      decode (.enc (e4 .bspace 2).ePhase.code none) = .ok .eBspace) ∧
    ((bothBusy .enc).cmd = [] ∧ (bothBusy .enc).ePhase ≠ .idle ∧ (bothBusy .enc).dPhase ≠ .idle ∧
      (bothBusy .enc).turn = .enc) ∧
    ((h1 .len 2 0 0#32).cmd = [] ∧ (h1 .len 2 0 0#32).dPhase ≠ .idle ∧ (h1 .len 2 0 0#32).ePhase = .idle ∧
      decode (.dec (h1 .len 2 0 0#32).dPhase.code none) = .ok .dLen) ∧
    ((bothBusy .dec).cmd = [] ∧ (bothBusy .dec).dPhase ≠ .idle ∧ (bothBusy .dec).ePhase ≠ .idle ∧
      (bothBusy .dec).turn = .dec) := by decide

theorem witness_IdleBlockWaits : endOfRun State.reset ∧ endOfRun accepted72 := by decide

theorem witness_StartLatchesTheOperands : (1 ≤ 1 ∧ 1 ≤ 32) ∧ (1 ≤ 32 ∧ 32 ≤ 32) ∧ exact0.ePhase = .idle := by decide

theorem witness_SendOutsideItsPreconditionIsRefused :
    (e4 .hmark 2).ePhase ≠ .idle ∧ (exact0.ePhase = .idle ∧ (33 = 0 ∨ 32 < 33)) ∧ (1 ≤ 32 ∧ 32 ≤ 32) := by decide

theorem witness_BspaceMapsTheSelectedBit :
    ((e4 .bspace 0).eIdx < 32 ∧ (e4 .bspace 0).eIdx = 0) ∧ ((e4 .bspace 31).eIdx < 32 ∧ (e4 .bspace 31).eIdx ≠ 0) ∧
      (BlockInv (bothBusy .enc) ∧ (bothBusy .enc).ePhase = .bspace) :=
  ⟨by decide, by decide, bothBusy_inv _, rfl⟩

theorem witness_UndefinedAccessesFault :
    32 ≤ (e4 .bspace 32).eIdx ∧ ({ exact0 with raw := [0, 4400] } : State).raw.length < 3 ∧
      (3 ≤ ({ exact0 with raw := [0, 4400, 4400], dOffset := 3 } : State).raw.length ∧
        ({ exact0 with raw := [0, 4400, 4400], dOffset := 3 } : State).raw.length ≤
          ({ exact0 with raw := [0, 4400, 4400], dOffset := 3 } : State).dOffset) := by decide

theorem witness_SendRunsToItsFrame :
    ((issued (sendWord 1 1#32)).ePhase = .idle ∧ (issued (sendWord 1 1#32)).dPhase = .idle ∧
      (issued (sendWord 1 1#32)).cmd = [(sendWord 1 1#32)]) ∧
    (issued (sendWord 32 0xF20D03FC#32)).cmd = [(sendWord 32 0xF20D03FC#32)] ∧ 1 ≤ 32 ∧ 32 ≤ 32 := by decide

theorem witness_EncodeReadsOnlyTheLowBits :
    ∀ k, k < 4 → (5#32).getLsbD k = (0xFFFFFFF5#32).getLsbD k := by decide

theorem witness_DecodeStartsItsPass : exact0.dPhase = .idle := by decide

theorem witness_DecodeToABusyDecoderIsRefused : (h1 .hmark 1 0 0#32).dPhase ≠ .idle := by decide

theorem witness_HmarkChecksLengthThenHeaderMark :
    ({ h1 .hmark 1 0 0#32 with raw := [0, 4400] } : State).raw.length < 3 ∧
    (3 ≤ ({ h1 .hmark 1 0 0#32 with raw := [0, 4400, 0] } : State).raw.length ∧
      ({ h1 .hmark 1 0 0#32 with raw := [0, 4400, 0] } : State).raw[1]? = some 4400 ∧
      matchWith .exact 4400 4400 = true) ∧
    (({ h1 .hmark 1 0 0#32 with raw := [0, 1, 0] } : State).raw[1]? = some 1 ∧ matchWith .exact 1 4400 = false) := by decide

theorem witness_LenAcceptsOnlyTheThreeLengths :
    (3 ≤ (withLen 115).raw.length ∧ ((withLen 115).raw.length - 3) / 2 = 56) ∧
    ((withLen 148).raw.length - 3) / 2 = 72 ∧ ((withLen 164).raw.length - 3) / 2 = 80 ∧
    (3 ≤ (withLen 114).raw.length ∧ ((withLen 114).raw.length - 3) / 2 ≠ 56) ∧
    ((withLen 165).raw.length - 3) / 2 ≠ 80 ∧ (3 ≤ (withLen 3).raw.length ∧ ((withLen 3).raw.length - 3) / 2 ≠ 56) := by
  decide +kernel

/-- L4 and Q4: a rejected `D.LEN` and a rejected `D.BMARK`. -/
theorem witness_RejectionChangesOnlyTheResult :
    (∃ t, exec .dLen { h1 .len 2 0 0#32 with raw := [0, 4400, 0] } = .next t ∧ t.dPhase = .idle ∧ t.rStatus = .rejected) ∧
    (∃ t, exec .dBmark { h1 .bmark 1 0 0#32 with raw := [0, 1] } = .next t ∧ t.dPhase = .idle ∧ t.rStatus = .rejected) :=
  ⟨⟨_, rfl, rfl, rfl⟩, ⟨_, rfl, rfl, rfl⟩⟩

theorem witness_HspaceChecksTheHeaderSpace :
    ((h1 .hspace 2 0 0#32).raw[(h1 .hspace 2 0 0#32).dOffset]? = some 4400 ∧ matchWith .exact 4400 4400 = true) ∧
    ((withRaw (h1 .hspace 2 0 0#32) 2 1000).raw[2]? = some 1000 ∧ matchWith .exact 1000 4400 = false) := by decide +kernel

theorem witness_BmarkChecksTheBitMark :
    ((h1 .bmark 3 0 0#32).raw[(h1 .bmark 3 0 0#32).dOffset]? = some 550 ∧ matchWith .exact 550 550 = true) ∧
    ((withRaw (h1 .bmark 3 0 0#32) 3 900).raw[3]? = some 900 ∧ matchWith .exact 900 550 = false) := by decide +kernel

theorem witness_BspaceClassifiesAndAccumulates :
    ((h1 .bspace 4 0 0#32).raw[(h1 .bspace 4 0 0#32).dOffset]? = some 1600 ∧ matchWith .exact 1600 1600 = true ∧
      (h1 .bspace 4 0 0#32).dI + 1 ≠ 32) ∧
    ((h1 .bspace 66 31 0#32).raw[(h1 .bspace 66 31 0#32).dOffset]? = some 550 ∧ matchWith .exact 550 1600 = false ∧
      matchWith .exact 550 550 = true ∧ (h1 .bspace 66 31 0#32).dI + 1 = 32) ∧
    (matchWith .exact 1075 1600 = false ∧ matchWith .exact 1075 550 = false) := by decide +kernel

theorem witness_AcceptWritesTheResult :
    (h1 .bspace 66 31 0#32).dI = 31 ∧ (h1 .bspace 66 31 0#32).raw[(h1 .bspace 66 31 0#32).dOffset]? = some 550 ∧
      classify (matchWith (h1 .bspace 66 31 0#32).matcher) 550 = some false := by decide +kernel

theorem witness_DecodeRunsToItsResult :
    (issued 0#40).ePhase = .idle ∧ (issued 0#40).dPhase = .idle ∧ (issued 0#40).cmd = [0#40] ∧
      decode (.cmd 0#40) = .ok .decode := by decide

theorem witness_SixBufferLengthsAreSupported :
    (3 ≤ 115 ∧ apparentCount 115 ∈ [56, 72, 80]) ∧ (3 ≤ 117 ∧ apparentCount 117 ∉ [56, 72, 80]) := by decide

set_option maxRecDepth 8000 in
/-- H1: an acceptance. -/
theorem witness_AcceptedLengthsAndCounts :
    decodeFrame (matchWith .exact) f72 = .accepted 72 0xF20D03FC#32 Config.protoTag := by rfl

/-- L7: an acceptance of a frame of zeros, the shortest supported buffer. -/
theorem witness_ValueHoldsTheFirstBitOnTop :
    decodeFrame (matchWith .exact) ((frameBuf 30000 (List.replicate 56 false)).take 115) =
      .accepted 56 0#32 Config.protoTag := by rfl

/-- H2 and H8: buffers of one length that differ at indices 0, 67, 68 only. -/
theorem witness_UnreadPositionsDoNotMatter :
    f72.length = (((f72.set 0 0).set 67 1075).set 68 1).length ∧
    f72 ≠ ((f72.set 0 0).set 67 1075).set 68 1 ∧
    ∀ i, i < 67 → 1 ≤ i → f72[i]? = (((f72.set 0 0).set 67 1075).set 68 1)[i]? := by decide +kernel

/-- The five clauses: L3, V4, Q2, Q3, and Q4 and H7 (bit positions 0 and 31). -/
theorem witness_RejectionsFollowTheStepOrder :
    ([0, 4400] : List Nat).length < 3 ∧
    matchWith .exact ((f72.set 1 9000).getD 1 0) 4400 = false ∧
    (matchWith .exact ((frameBuf 0 (List.replicate 64 true)).getD 1 0) 4400 = true ∧
      ((frameBuf 0 (List.replicate 64 true)).length - 3) / 2 ∉ [56, 72, 80]) ∧
    ((f72.length - 3) / 2 ∈ [56, 72, 80] ∧ matchWith .exact (f72.getD 1 0) 4400 = true ∧
      matchWith .exact ((f72.set 2 1).getD 2 0) 4400 = false) ∧
    (matchWith .exact (f72.getD 2 0) 4400 = true ∧ matchWith .exact ((f72.set 3 1).getD (3 + 2 * 0) 0) 550 = false ∧
      matchWith .exact ((f72.set 66 1075).getD (4 + 2 * 31) 0) 1600 = false ∧
      matchWith .exact ((f72.set 66 1075).getD (4 + 2 * 31) 0) 550 = false) := by decide +kernel

theorem witness_ShiftAccumulateLosesNoBit : b32.length ≤ 32 := by decide

theorem witness_OwnFramesAreRejected : (1 ≤ 1 ∧ 1 ≤ 32) ∧ (1 ≤ 32 ∧ 32 ≤ 32) ∧ matchWith .exact 4400 4400 = true := by decide

theorem witness_WidenedRoundTripRecoversTheTopBits :
    ReflexiveOnConstants (matchWith .exact) ∧ SeparatesSpaces (matchWith .exact) ∧
    ReflexiveOnConstants (matchWith (.pct 25)) ∧ SeparatesSpaces (matchWith (.pct 25)) ∧
    72 ∈ [56, 72, 80] ∧ 80 ∈ [56, 72, 80] ∧ 80 ≤ 80 := by
  unfold ReflexiveOnConstants SeparatesSpaces
  decide

/-- A good state in the middle of both runs, and the step it takes, for ENC's turn and for DEC's. -/
theorem witness_EveryStepKeepsTheInvariant :
    (∃ t, BlockInv (bothBusy .enc) ∧ step (bothBusy .enc) = .next t) ∧
      ∃ t, BlockInv (bothBusy .dec) ∧ step (bothBusy .dec) = .next t :=
  ⟨⟨_, bothBusy_inv _, rfl⟩, ⟨_, bothBusy_inv _, rfl⟩⟩

theorem witness_BoundaryActionsKeepTheInvariant :
    ∃ t, BlockInv accepted72 ∧ captureFill [1, 2] accepted72 = .next t :=
  ⟨_, accepted72_inv, rfl⟩

theorem witness_GoodStatesNeverStop :
    (BlockInv (bothBusy .dec) ∧ (bothBusy .dec).cmd = []) ∧
    (BlockInv { State.reset with cmd := [0xA000000000#40] } ∧
      commandLegal { State.reset with cmd := [0xA000000000#40] } 0xA000000000#40) ∧
    (BlockInv { State.reset with cmd := [0#40] } ∧ commandLegal { State.reset with cmd := [0#40] } 0#40) :=
  ⟨⟨bothBusy_inv _, rfl⟩, ⟨⟨by decide, by decide, by decide, by decide⟩, by decide⟩,
    ⟨by decide, by decide, by decide, by decide⟩, by decide⟩

/-- DEC comes to rest by an acceptance (H1, step 68) while ENC is busy. -/
theorem witness_DecoderRestsWithItsResult :
    ∃ t, BlockInv (bothBusy .dec) ∧ (bothBusy .dec).dPhase ≠ .idle ∧ step (bothBusy .dec) = .next t ∧ t.dPhase = .idle :=
  ⟨_, bothBusy_inv _, by decide, rfl, by decide +kernel⟩

/-- ENC comes to rest after the last event of E1. -/
theorem witness_EncoderRestsWithItsFrame :
    ∃ s t, BlockInv s ∧ s.ePhase ≠ .idle ∧ step s = .next t ∧ t.ePhase = .idle :=
  ⟨{ State.reset with
      ePhase := .off
      eNbits := 1
      eValue := 1#32
      carrier := true
      tx := [(.mark, 4400), (.space, 4400), (.mark, 550), (.space, 1600), (.mark, 550)] },
    _, ⟨by decide, by decide, by decide, by decide⟩, by decide, rfl, by decide⟩

theorem witness_ConcurrentCommandsEndAsIfAlone :
    BlockInv (bothBusy .enc) ∧ (bothBusy .enc).cmd = [] ∧ (bothBusy .enc).ePhase ≠ .idle ∧
      (bothBusy .enc).dPhase ≠ .idle :=
  ⟨bothBusy_inv _, rfl, by decide, by decide⟩

theorem witness_EncoderLeavesTheDecoderAlone :
    ∃ t, Instr.eBspace.agent = .enc ∧ exec .eBspace (bothBusy .enc) = .next t := ⟨_, rfl, rfl⟩

theorem witness_DecoderLeavesTheEncoderAlone :
    ∃ t, Instr.dBmark.agent = .dec ∧ exec .dBmark (bothBusy .enc) = .next t := ⟨_, rfl, rfl⟩

theorem witness_DriveStreamOnlyGrows :
    (∃ t, exec .eOff (bothBusy .enc) = .next t ∧ .eOff ∈ [Instr.eHmark, .eHspace, .eBmark, .eBspace, .eTerm, .eOff]) ∧
    (∃ t, exec (.eStart 1 1#32) exact0 = .next t ∧
      .eStart 1 1#32 ∉ [Instr.eHmark, .eHspace, .eBmark, .eBspace, .eTerm, .eOff]) :=
  ⟨⟨_, rfl, by decide⟩, ⟨_, rfl, by decide⟩⟩

theorem witness_CursorNeverMovesBack :
    ∃ t, exec .dHspace (h1 .hspace 2 0 0#32) = .next t ∧ Instr.dHspace ≠ .decode ∧ Instr.dHspace ≠ .dStart :=
  ⟨_, rfl, by decide, by decide⟩

theorem witness_ResultsHoldUntilTheNextDecode :
    (∃ t, accepted72.dPhase = .idle ∧ accepted72.cmd = [] ∧ step accepted72 = .next t) ∧
    (∃ t, (issued 0x8100000001#40).dPhase = .idle ∧ 2 ^ 39 ≤ (0x8100000001#40).toNat ∧
      step (issued 0x8100000001#40) = .next t) :=
  ⟨⟨_, rfl, rfl, rfl⟩, ⟨_, rfl, by decide, rfl⟩⟩

theorem witness_BufferAndMatcherNeverChange : ∃ t, step (bothBusy .dec) = .next t := ⟨_, rfl⟩

theorem witness_HostReadsAResultOnlyWhenAccepted :
    (BlockInv accepted72 ∧ accepted72.rStatus = .accepted) ∧
      (BlockInv (bothBusy .enc) ∧ (bothBusy .enc).rStatus ≠ .accepted) :=
  ⟨⟨accepted72_inv, rfl⟩, bothBusy_inv _, by decide⟩

theorem witness_BoundaryActionsDoWhatTheySay :
    endOfRun exact0 ∧ 1 ≤ 1 ∧ 32 ≤ 32 ∧ decode (.cmd 0#40) = .ok .decode ∧ exact0.dPhase = .idle ∧
      (bothBusy .dec).dPhase ≠ .idle := by decide

theorem witness_PayloadDecodesToItsFirstFourBytes :
    ReflexiveOnConstants (matchWith .exact) ∧ SeparatesSpaces (matchWith .exact) := by
  unfold ReflexiveOnConstants SeparatesSpaces
  decide

theorem witness_PayloadFieldsSitWhereTheLayoutPutsThem :
    (Payload.mk 0 0 0 0 0 5 0xEE 0 0).b6 = packByte6 6#3 1#2 7#3 := by decide

end Sys2Proof.Tests
end

section
/-! What an operation of one agent leaves unchanged (`10_state.md` R33, `60_exceptions.md` R156). -/

namespace Sys2Proof.Machine

open Sys2Proof.Claims

/-! ### The operations of ENC -/

/-- Everything an operation of ENC that answers can have done: latch the operands of a `SEND`, or drive one event. -/
theorem exec_enc_cases {i : Instr} {s t : State} (ha : i.agent = .enc) (h : exec i s = .next t) :
    (i ∉ [Instr.eHmark, .eHspace, .eBmark, .eBspace, .eTerm, .eOff] ∧ ∃ n v, t = latchSend n v s) ∨
    (i ∈ [Instr.eHmark, .eHspace, .eBmark, .eBspace, .eTerm, .eOff] ∧
      ∃ k d p j, d ∈ [4400, 550, 1600, 0] ∧ t = { drive k d s with ePhase := p, eIdx := j }) := by
  cases i with
  | send n v => exact .inl ⟨by simp, n, v, (execSend_cases h).2.2⟩
  | eStart n v => exact .inl ⟨by simp, n, v, (startSend_cases h).2⟩
  | eHmark => cases h; exact .inr ⟨by simp, .mark, 4400, .hspace, s.eIdx, by simp, rfl⟩
  | eHspace => cases h; exact .inr ⟨by simp, .space, 4400, .bmark, s.eIdx, by simp, rfl⟩
  | eBmark => cases h; exact .inr ⟨by simp, .mark, 550, .bspace, s.eIdx, by simp, rfl⟩
  | eBspace =>
    have hd : spaceOf (s.eValue.getLsbD s.eIdx) ∈ [4400, 550, 1600, 0] := by
      rw [spaceOf_eq]; split <;> simp
    obtain ⟨-, ⟨-, rfl⟩ | ⟨-, rfl⟩⟩ := execEBspace_cases h
    · exact .inr ⟨by simp, .space, _, .term, s.eIdx, hd, rfl⟩
    · exact .inr ⟨by simp, .space, _, .bmark, s.eIdx - 1, hd, rfl⟩
  | eTerm => cases h; exact .inr ⟨by simp, .mark, 550, .off, s.eIdx, by simp, rfl⟩
  | eOff => cases h; exact .inr ⟨by simp, .space, 0, .idle, s.eIdx, by simp, rfl⟩
  | _ => cases ha

/-- No operation of ENC changes a register of DEC, a result register, the buffer or the boundary. -/
theorem exec_enc_frame {i : Instr} {s t : State} (ha : i.agent = .enc) (h : exec i s = .next t) :
    sameDecoder s t ∧ sameBoundary s t := by
  unfold sameDecoder sameResult sameBoundary
  obtain ⟨-, n, v, rfl⟩ | ⟨-, k, d, p, j, -, rfl⟩ := exec_enc_cases ha h
  · simp
  · simp

/-! ### The operations of DEC -/

/-- What an operation of DEC other than the start of a pass can do to the state. -/
inductive DecEffect (s : State) : State → Prop where
  /-- a check passes (R112, R114, R115) -/
  | pass (p : DPhase) : DecEffect s { advanceCursor s with dPhase := p }
  /-- the apparent count is supported (R113) -/
  | count (n : Nat) : DecEffect s { s with dNbits := n, dPhase := .hspace }
  /-- a bit is accumulated (R116) -/
  | bit (v : Value) : DecEffect s { advanceCursor s with dData := v, dI := s.dI + 1, dPhase := .bmark }
  /-- the last bit is accumulated and the pass accepts (R116, R117) -/
  | lastBit (v : Value) : DecEffect s (accept { advanceCursor s with dData := v, dI := s.dI + 1 })
  /-- the tail of an acceptance (R117) -/
  | accept : DecEffect s (accept s)
  /-- a rejection, with the count `D.LEN` may have written before it (R118, R113) -/
  | reject (kind : RejectKind) (n : Nat) : DecEffect s (reject kind { s with dNbits := n })

theorem DecEffect.of_checkElement {s t : State} {e : Duration} {kind : RejectKind} {p : DPhase}
    (h : checkElement e kind p s = .next t) : DecEffect s t := by
  obtain ⟨-, -, ⟨-, rfl⟩ | ⟨-, rfl⟩⟩ := checkElement_cases h
  · exact .pass p
  · exact .reject kind s.dNbits

/-- Everything an operation of DEC that answers can have done. -/
theorem exec_dec_cases {i : Instr} {s t : State} (ha : i.agent = .dec) (h : exec i s = .next t) :
    ((i = .decode ∨ i = .dStart) ∧ t = startDecode s) ∨ DecEffect s t := by
  cases i with
  | decode => exact .inl ⟨.inl rfl, (execDecode_cases h).2⟩
  | dStart => cases h; exact .inl ⟨.inr rfl, rfl⟩
  | dHmark =>
    obtain ⟨-, rfl⟩ | ⟨-, hc⟩ := execDHmark_cases h
    · exact .inr (.reject _ s.dNbits)
    · exact .inr (.of_checkElement hc)
  | dLen =>
    obtain ⟨-, ⟨-, rfl⟩ | ⟨-, rfl⟩⟩ := execDLen_cases h
    · exact .inr (.count _)
    · exact .inr (.reject _ _)
  | dHspace => exact .inr (.of_checkElement h)
  | dBmark => exact .inr (.of_checkElement h)
  | dBspace =>
    obtain ⟨-, -, ⟨b, -, rfl⟩ | ⟨-, rfl⟩⟩ := execDBspace_cases h
    · rw [acceptBit_eq]
      split
      · exact .inr (.lastBit _)
      · exact .inr (.bit _)
    · exact .inr (.reject _ s.dNbits)
  | dAccept => cases h; exact .inr .accept
  | dReject kind => cases h; exact .inr (.reject kind s.dNbits)
  | _ => cases ha

/-- No operation of DEC changes a register of ENC, the drive stream, the carrier, the buffer or the boundary. -/
theorem exec_dec_frame {i : Instr} {s t : State} (ha : i.agent = .dec) (h : exec i s = .next t) :
    sameEncoder s t ∧ sameBoundary s t := by
  unfold sameEncoder sameBoundary
  obtain ⟨-, rfl⟩ | he := exec_dec_cases ha h
  · simp
  · cases he <;> simp

theorem DecEffect.cursor {s t : State} (h : DecEffect s t) : s.dOffset ≤ t.dOffset ∧ t.dOffset ≤ s.dOffset + 1 := by
  cases h <;> simp

/-! ### Every operation, every step -/

theorem exec_sameBoundary {i : Instr} {s t : State} (h : exec i s = .next t) : sameBoundary s t := by
  cases ha : i.agent with
  | enc => exact (exec_enc_frame ha h).2
  | dec => exact (exec_dec_frame ha h).2

theorem encOp_agent {p : EPhase} {i : Instr} (h : encOp p = some i) : i.agent = .enc := by
  cases p <;> cases h <;> rfl

theorem decOp_agent {p : DPhase} {i : Instr} (h : decOp p = some i) : i.agent = .dec := by
  cases p <;> cases h <;> rfl

/-- A word whose op bit is set is a command of ENC (R75). -/
theorem decodeCmd_agent_of_ge {w : CmdWord} (h : 2 ^ 39 ≤ w.toNat) : (decodeCmd w).agent = .enc := by
  have ho : cmdOp w = true := by rw [cmdOp_eq]; exact decide_eq_true h
  rw [decodeCmd, if_pos ho]; rfl

end Sys2Proof.Machine
end

section
/-! The invariant of the block, agent by agent, and how each operation keeps it. -/

namespace Sys2Proof.Machine

open Sys2Proof.Claims

/-- The part of the invariant that speaks of ENC. -/
def EncoderInv (s : State) : Prop := EncInv s ∧ s.eNbits ≤ 32 ∧ s.eIdx < 32

/-- The part of the invariant that speaks of DEC and its results. -/
def DecoderInv (s : State) : Prop := DecInv s ∧ ResultInv s ∧ s.dOffset ≤ 67 ∧ s.dI ≤ 32

theorem blockInv_iff {s : State} : BlockInv s ↔ EncoderInv s ∧ DecoderInv s :=
  ⟨fun ⟨he, hd, hr, hn, hx, ho, hc⟩ => ⟨⟨he, hn, hx⟩, hd, hr, ho, hc⟩,
    fun ⟨⟨he, hn, hx⟩, hd, hr, ho, hc⟩ => ⟨he, hd, hr, hn, hx, ho, hc⟩⟩

theorem EncoderInv.of_same {s t : State} (h : sameEncoder s t) (hi : EncoderInv s) : EncoderInv t := by
  obtain ⟨hp, hn, hv, hx, hc, ht⟩ := h
  simpa only [EncoderInv, EncInv, eventsDone, hp, hn, hv, hx, hc, ht] using hi

theorem ResultInv.of_same {s t : State} (h : sameResult s t) (hi : ResultInv s)
    (hb : t.dPhase ≠ .idle → s.dPhase ≠ .idle) : ResultInv t := by
  obtain ⟨hs, he, hn, hv, hp⟩ := h
  obtain ⟨hrun, hrest⟩ := hi
  simp only [ResultInv, hs, he, hn, hv, hp]
  exact ⟨fun ht => hrun (hb ht), hrest⟩

theorem DecoderInv.of_same {s t : State} (h : sameDecoder s t) (hraw : t.raw = s.raw) (hmt : t.matcher = s.matcher)
    (hi : DecoderInv s) : DecoderInv t := by
  obtain ⟨hp, ho, hn, hd, hI, hr⟩ := h
  obtain ⟨hdec, hres, hoff, hcnt⟩ := hi
  have hmd : t.matchDur = s.matchDur := by funext m e; rw [State.matchDur, State.matchDur, hmt]
  refine ⟨?_, hres.of_same hr fun h => hp ▸ h, ho ▸ hoff, hI ▸ hcnt⟩
  simpa only [DecInv, hmd, hp, ho, hn, hd, hI, hraw] using hdec

/-! ### ENC: the index, and the event each micro-operation drives -/

/-- The index of ENC agrees with its phase (R12, R13): the first three clauses of `EncInv`. -/
def IndexFits (s : State) : Prop :=
  (s.ePhase ≠ .idle → nbitsLegal s.eNbits = true ∧ s.eIdx < s.eNbits) ∧
  (s.ePhase = .hmark ∨ s.ePhase = .hspace → s.eIdx = s.eNbits - 1) ∧
  (s.ePhase = .term ∨ s.ePhase = .off → s.eIdx = 0)

/-- The carrier flag is on exactly when the last event of `TX` is a mark (R15; log 8): the fourth clause of `EncInv`. -/
def CarrierShowsLast (s : State) : Prop :=
  s.carrier = match s.tx.getLast? with | some (.mark, _) => true | _ => false

theorem encInv_iff {s : State} :
    EncInv s ↔ IndexFits s ∧ CarrierShowsLast s ∧ (encodeFrame s.eNbits s.eValue).take (eventsDone s) <:+ s.tx :=
  ⟨fun ⟨hbusy, hhead, htail, hc, hs⟩ => ⟨⟨hbusy, hhead, htail⟩, hc, hs⟩,
    fun ⟨⟨hbusy, hhead, htail⟩, hc, hs⟩ => ⟨hbusy, hhead, htail, hc, hs⟩⟩

theorem carrierShowsLast_drive (k : Kind) (d : Duration) (s : State) : CarrierShowsLast (drive k d s) := by
  simp only [CarrierShowsLast, drive_carrier, drive_tx, List.getLast?_concat]
  cases k <;> rfl

theorem encOp_busy {p : EPhase} {i : Instr} (h : encOp p = some i) : p ≠ .idle := by
  rintro rfl; cases h

/-- A micro-operation of ENC drives the next event of the frame (R99, R103): it never raises the index, and it leaves the index
where its next phase wants it. -/
theorem encOp_drives_next_event {i : Instr} {s t : State} (hf : IndexFits s) (hop : encOp s.ePhase = some i)
    (h : exec i s = .next t) :
    ∃ k d p j, (encodeFrame s.eNbits s.eValue)[eventsDone s]? = some (k, d) ∧
      t = { drive k d s with ePhase := p, eIdx := j } ∧ j ≤ s.eIdx ∧ IndexFits t ∧
      (p ≠ .idle → eventsDone t = eventsDone s + 1) := by
  obtain ⟨hbusy, hhead, htail⟩ := hf
  have hlt := hbusy (encOp_busy hop)
  cases hp : s.ePhase with
  | idle => exact absurd hp (encOp_busy hop)
  | hmark =>
    rw [hp] at hop; cases hop; cases h
    have hj := hhead (.inl hp)
    exact ⟨.mark, 4400, .hspace, s.eIdx, by simpa only [eventsDone, hp] using encodeFrame_zero _ _, rfl, le_rfl,
      ⟨fun _ => hlt, fun _ => hj, by simp⟩, fun _ => by simp [eventsDone, hp]⟩
  | hspace =>
    rw [hp] at hop; cases hop; cases h
    have hj := hhead (.inr hp)
    exact ⟨.space, 4400, .bmark, s.eIdx, by simpa only [eventsDone, hp] using encodeFrame_one _ _, rfl, le_rfl,
      ⟨fun _ => hlt, by simp, by simp⟩, fun _ => by simp [eventsDone, hp, hj]⟩
  | bmark =>
    rw [hp] at hop; cases hop; cases h
    exact ⟨.mark, 550, .bspace, s.eIdx, by simpa [eventsDone, hp] using encodeFrame_bitMark _ _ (by omega), rfl, le_rfl,
      ⟨fun _ => hlt, by simp, by simp⟩, fun _ => by simp [eventsDone, hp]; omega⟩
  | bspace =>
    rw [hp] at hop; cases hop
    have hev := encodeFrame_bitSpace s.eNbits s.eValue (k := s.eNbits - 1 - s.eIdx) (by omega)
    rw [show s.eNbits - 1 - (s.eNbits - 1 - s.eIdx) = s.eIdx by omega] at hev
    have hdone : eventsDone s = 3 + 2 * (s.eNbits - 1 - s.eIdx) := by simp [eventsDone, hp]
    rw [← hdone] at hev
    obtain ⟨-, ⟨h0, rfl⟩ | ⟨h0, rfl⟩⟩ := execEBspace_cases h
    · exact ⟨.space, _, .term, s.eIdx, hev, rfl, le_rfl, ⟨fun _ => hlt, by simp, fun _ => h0⟩,
        fun _ => by simp [eventsDone, hp]; omega⟩
    · exact ⟨.space, _, .bmark, s.eIdx - 1, hev, rfl, Nat.sub_le _ _,
        ⟨fun _ => ⟨hlt.1, by simp; omega⟩, by simp, by simp⟩, fun _ => by simp [eventsDone, hp]; omega⟩
  | term =>
    rw [hp] at hop; cases hop; cases h
    have hj := htail (.inl hp)
    exact ⟨.mark, 550, .off, s.eIdx, by simpa [eventsDone, hp] using encodeFrame_term _ _, rfl, le_rfl,
      ⟨fun _ => hlt, by simp, fun _ => hj⟩, fun _ => by simp [eventsDone, hp]; omega⟩
  | off =>
    rw [hp] at hop; cases hop; cases h
    exact ⟨.space, 0, .idle, s.eIdx, by simpa [eventsDone, hp] using encodeFrame_off _ _, rfl, le_rfl,
      ⟨by simp, by simp, by simp⟩, by simp⟩

theorem take_succ_suffix_concat {α : Type} {l m : List α} {k : Nat} {a : α} (h : l[k]? = some a)
    (hs : l.take k <:+ m) : l.take (k + 1) <:+ m ++ [a] := by
  obtain ⟨u, rfl⟩ := hs
  exact ⟨u, by rw [take_succ_of_getElem? h, List.append_assoc]⟩

theorem EncoderInv.exec_encOp {i : Instr} {s t : State} (hi : EncoderInv s) (hop : encOp s.ePhase = some i)
    (h : exec i s = .next t) : EncoderInv t := by
  obtain ⟨henc, hn, hx⟩ := hi
  obtain ⟨hf, -, hs⟩ := encInv_iff.mp henc
  obtain ⟨k, d, p, j, hev, rfl, hj, hf', hdone⟩ := encOp_drives_next_event hf hop h
  refine ⟨encInv_iff.mpr ⟨hf', carrierShowsLast_drive k d s, ?_⟩, hn, lt_of_le_of_lt hj hx⟩
  by_cases hp : p = .idle
  · subst hp; exact List.nil_suffix
  · rw [hdone hp]; exact take_succ_suffix_concat hev hs

/-- `E.START` begins a frame of which nothing is driven yet (R91). -/
theorem EncoderInv.latchSend {n : Nat} {v : Value} {s : State} (hi : EncoderInv s) (hn : 1 ≤ n ∧ n ≤ 32) :
    EncoderInv (latchSend n v s) := by
  obtain ⟨-, hc, -⟩ := encInv_iff.mp hi.1
  have hlt : n - 1 < n := by omega
  have hf : IndexFits (Machine.latchSend n v s) := by simp [IndexFits, hn, hlt]
  exact ⟨encInv_iff.mpr ⟨hf, hc, List.nil_suffix⟩, hn.2, by simp; omega⟩

/-! ### The results -/

theorem resultInv_reject (kind : RejectKind) (s : State) : ResultInv (reject kind s) := by
  have he : errCode kind ≠ 0#2 := by cases kind <;> decide
  simp [ResultInv, he]

theorem resultInv_accept {s : State} (hn : s.dNbits ∈ [56, 72, 80]) : ResultInv (accept s) := by
  simpa [ResultInv] using hn

theorem resultInv_startDecode (s : State) : ResultInv (startDecode s) := by
  simp [ResultInv]

/-! ### DEC: what its phase promises -/

/-- The header mark has been checked (R112). -/
def HeaderMarkPassed (s : State) : Prop := 3 ≤ s.raw.length ∧ s.matchDur (s.raw.getD 1 0) 4400 = true

/-- The count has been written and is supported (R113). -/
def CountPassed (s : State) : Prop := s.dNbits = apparentCount s.raw.length ∧ s.dNbits ∈ [56, 72, 80]

/-- The header space has been checked and the accumulator spells the `D_I` bits classified so far, fewer than 32 (R114, R116). -/
def BitsPassed (s : State) : Prop :=
  s.dI < 32 ∧ s.matchDur (s.raw.getD 2 0) 4400 = true ∧
    (classifyAll s.matchDur s.raw s.dI).map (fun bits => BitVec.ofNat 32 (bitsToNat bits)) = some s.dData

section
variable {s : State}

theorem decInv_of_idle (h : s.dPhase = .idle) : DecInv s := by simp [DecInv, h]

theorem decInv_iff_of_hmark (h : s.dPhase = .hmark) : DecInv s ↔ s.dOffset = 1 ∧ s.dI = 0 ∧ s.dData = 0#32 := by
  simp [DecInv, h]

theorem decInv_iff_of_len (h : s.dPhase = .len) :
    DecInv s ↔ (s.dOffset = 2 ∧ s.dI = 0 ∧ s.dData = 0#32) ∧ HeaderMarkPassed s := by
  simp [DecInv, HeaderMarkPassed, h]

theorem decInv_iff_of_hspace (h : s.dPhase = .hspace) :
    DecInv s ↔ (s.dOffset = 2 ∧ s.dI = 0 ∧ s.dData = 0#32) ∧ HeaderMarkPassed s ∧ CountPassed s := by
  simp [DecInv, HeaderMarkPassed, CountPassed, h]

theorem decInv_iff_of_bmark (h : s.dPhase = .bmark) :
    DecInv s ↔ s.dOffset = 3 + 2 * s.dI ∧ HeaderMarkPassed s ∧ CountPassed s ∧ BitsPassed s := by
  simp [DecInv, HeaderMarkPassed, CountPassed, BitsPassed, h]

theorem decInv_iff_of_bspace (h : s.dPhase = .bspace) :
    DecInv s ↔ (s.dOffset = 4 + 2 * s.dI ∧ s.matchDur (s.raw.getD (3 + 2 * s.dI) 0) 550 = true) ∧
      HeaderMarkPassed s ∧ CountPassed s ∧ BitsPassed s := by
  simp [DecInv, HeaderMarkPassed, CountPassed, BitsPassed, h]

end

/-! ### The accumulator -/

theorem shiftIn_eq_shiftConcat (d : Value) (b : Bool) : shiftIn d b = d.shiftConcat b := by
  apply BitVec.eq_of_getElem_eq
  intro k hk
  cases k <;> simp [shiftIn, BitVec.getElem_shiftConcat]

/-- Shifting a bit in is appending it to the bits the accumulator spells (R121). -/
theorem shiftIn_ofNat (n : Nat) (b : Bool) : shiftIn (BitVec.ofNat 32 n) b = BitVec.ofNat 32 (2 * n + b.toNat) := by
  apply BitVec.eq_of_toNat_eq
  rw [shiftIn_eq_shiftConcat, BitVec.toNat_shiftConcat, BitVec.toNat_ofNat, BitVec.toNat_ofNat, Nat.shiftLeft_eq]
  omega

theorem getD_of_getElem? {l : List Duration} {i : Nat} {d : Duration} (h : l[i]? = some d) : l.getD i 0 = d := by
  rw [List.getD_eq_getElem?_getD, h, Option.getD_some]

/-- One more position classified is one more bit accumulated (R119, R121). -/
theorem classifyAll_succ_shiftIn {mt : Duration → Duration → Bool} {raw : List Duration} {j : Nat} {v : Value} {b : Bool}
    (hv : (classifyAll mt raw j).map (fun bits => BitVec.ofNat 32 (bitsToNat bits)) = some v)
    (hb : classifyPos mt raw j = some b) :
    (classifyAll mt raw (j + 1)).map (fun bits => BitVec.ofNat 32 (bitsToNat bits)) = some (shiftIn v b) := by
  obtain ⟨bits, hbits, rfl⟩ := Option.map_eq_some_iff.mp hv
  simp [classifyAll, hbits, hb, bitsToNat_append, shiftIn_ofNat]

/-! ### DEC: each operation -/

theorem decoderInv_reject {s : State} (kind : RejectKind) (ho : s.dOffset ≤ 67) (hc : s.dI ≤ 32) :
    DecoderInv (reject kind s) :=
  ⟨decInv_of_idle rfl, resultInv_reject kind s, ho, hc⟩

theorem decoderInv_accept {s : State} (hn : s.dNbits ∈ [56, 72, 80]) (ho : s.dOffset ≤ 67) (hc : s.dI ≤ 32) :
    DecoderInv (accept s) :=
  ⟨decInv_of_idle rfl, resultInv_accept hn, ho, hc⟩

theorem decoderInv_startDecode (s : State) : DecoderInv (startDecode s) :=
  ⟨(decInv_iff_of_hmark rfl).mpr ⟨rfl, rfl, rfl⟩, resultInv_startDecode s, by simp, by simp⟩

/-- A check keeps the invariant when its success brings what the next phase promises; a failure always keeps it. -/
theorem DecoderInv.checkElement {s t : State} {e : Duration} {kind : RejectKind} {p : DPhase} (hi : DecoderInv s)
    (hb : s.dPhase ≠ .idle) (ho : s.dOffset < 67)
    (hpass : s.matchDur (s.raw.getD s.dOffset 0) e = true → DecInv { advanceCursor s with dPhase := p })
    (h : checkElement e kind p s = .next t) : DecoderInv t := by
  obtain ⟨-, hres, hoff, hcnt⟩ := hi
  obtain ⟨m, hm, ⟨hmatch, rfl⟩ | ⟨-, rfl⟩⟩ := checkElement_cases h
  · have hsame : sameResult s { advanceCursor s with dPhase := p } := by simp [sameResult]
    exact ⟨hpass (by rwa [getD_of_getElem? hm]), hres.of_same hsame fun _ => hb, ho, hcnt⟩
  · exact decoderInv_reject kind hoff hcnt

theorem DecoderInv.execDHmark {s t : State} (hi : DecoderInv s) (hp : s.dPhase = .hmark)
    (h : execDHmark s = .next t) : DecoderInv t := by
  obtain ⟨ho, hI, hd⟩ := (decInv_iff_of_hmark hp).mp hi.1
  obtain ⟨-, rfl⟩ | ⟨hl, hc⟩ := execDHmark_cases h
  · exact decoderInv_reject _ (by omega) (by omega)
  · refine hi.checkElement (by simp [hp]) (by omega) (fun hm => (decInv_iff_of_len rfl).mpr ?_) hc
    rw [ho] at hm
    exact ⟨⟨by simp [ho], hI, hd⟩, hl, hm⟩

theorem DecoderInv.execDLen {s t : State} (hi : DecoderInv s) (hp : s.dPhase = .len)
    (h : execDLen s = .next t) : DecoderInv t := by
  obtain ⟨hregs, hmark⟩ := (decInv_iff_of_len hp).mp hi.1
  obtain ⟨-, hres, hoff, hcnt⟩ := hi
  obtain ⟨-, ⟨hn, rfl⟩ | ⟨-, rfl⟩⟩ := execDLen_cases h
  · have hsame : sameResult s { s with dNbits := apparentCount s.raw.length, dPhase := .hspace } := by simp [sameResult]
    refine ⟨(decInv_iff_of_hspace rfl).mpr ⟨hregs, hmark, rfl, hn⟩, ?_, hoff, hcnt⟩
    exact hres.of_same hsame fun _ => by simp [hp]
  · exact decoderInv_reject _ hoff hcnt

theorem DecoderInv.execDHspace {s t : State} (hi : DecoderInv s) (hp : s.dPhase = .hspace)
    (h : execDHspace s = .next t) : DecoderInv t := by
  obtain ⟨⟨ho, hI, hd⟩, hmark, hcount⟩ := (decInv_iff_of_hspace hp).mp hi.1
  refine hi.checkElement (by simp [hp]) (by omega) (fun hm => (decInv_iff_of_bmark rfl).mpr ?_) h
  rw [ho] at hm
  refine ⟨by simp [ho, hI], hmark, hcount, by simp [hI], hm, ?_⟩
  simp [hI, hd, classifyAll, bitsToNat]

theorem DecoderInv.execDBmark {s t : State} (hi : DecoderInv s) (hp : s.dPhase = .bmark)
    (h : execDBmark s = .next t) : DecoderInv t := by
  obtain ⟨ho, hmark, hcount, hbits⟩ := (decInv_iff_of_bmark hp).mp hi.1
  have hI := hbits.1
  refine hi.checkElement (by simp [hp]) (by omega) (fun hm => (decInv_iff_of_bspace rfl).mpr ?_) h
  rw [ho] at hm
  exact ⟨⟨by simp [ho]; omega, hm⟩, hmark, hcount, hbits⟩

theorem DecoderInv.execDBspace {s t : State} (hi : DecoderInv s) (hp : s.dPhase = .bspace)
    (h : execDBspace s = .next t) : DecoderInv t := by
  obtain ⟨⟨ho, hm⟩, hmark, hcount, hI, hspace, hbits⟩ := (decInv_iff_of_bspace hp).mp hi.1
  obtain ⟨-, hres, hoff, hcnt⟩ := hi
  obtain ⟨d, hd, ⟨b, hb, rfl⟩ | ⟨-, rfl⟩⟩ := execDBspace_cases h
  · rw [acceptBit_eq]
    split
    · exact decoderInv_accept hcount.2 (by simp; omega) (by simp; omega)
    · rw [ho] at hd
      have hpos : classifyPos s.matchDur s.raw s.dI = some b := by
        simp [classifyPos, hm, getD_of_getElem? hd, hb, -List.getD_eq_getElem?_getD]
      have hsame : sameResult s { advanceCursor s with dData := shiftIn s.dData b, dI := s.dI + 1, dPhase := .bmark } := by
        simp [sameResult]
      refine ⟨(decInv_iff_of_bmark rfl).mpr ⟨by simp [ho]; omega, hmark, hcount, ?_⟩,
        hres.of_same hsame fun _ => by simp [hp], by simp; omega, by simp; omega⟩
      exact ⟨by simp; omega, hspace, classifyAll_succ_shiftIn hbits hpos⟩
  · exact decoderInv_reject _ hoff hcnt

theorem DecoderInv.exec_decOp {i : Instr} {s t : State} (hi : DecoderInv s) (hop : decOp s.dPhase = some i)
    (h : exec i s = .next t) : DecoderInv t := by
  cases hp : s.dPhase with
  | idle => rw [hp] at hop; cases hop
  | hmark => rw [hp] at hop; cases hop; exact hi.execDHmark hp h
  | len => rw [hp] at hop; cases hop; exact hi.execDLen hp h
  | hspace => rw [hp] at hop; cases hop; exact hi.execDHspace hp h
  | bmark => rw [hp] at hop; cases hop; exact hi.execDBmark hp h
  | bspace => rw [hp] at hop; cases hop; exact hi.execDBspace hp h

/-! ### The block: an operation of one agent keeps the other's part by its frame -/

theorem BlockInv.of_encoder {i : Instr} {s t : State} (hi : BlockInv s) (ha : i.agent = .enc) (h : exec i s = .next t)
    (he : EncoderInv t) : BlockInv t := by
  obtain ⟨hdec, hraw, -, hmt, -⟩ := exec_enc_frame ha h
  exact blockInv_iff.mpr ⟨he, (blockInv_iff.mp hi).2.of_same hdec hraw hmt⟩

theorem BlockInv.of_decoder {i : Instr} {s t : State} (hi : BlockInv s) (ha : i.agent = .dec) (h : exec i s = .next t)
    (hd : DecoderInv t) : BlockInv t :=
  blockInv_iff.mpr ⟨(blockInv_iff.mp hi).1.of_same (exec_dec_frame ha h).1, hd⟩

/-- A command, if it is started, keeps the invariant. -/
theorem BlockInv.exec_decodeCmd {w : CmdWord} {s t : State} (hi : BlockInv s) (h : exec (decodeCmd w) s = .next t) :
    BlockInv t := by
  unfold decodeCmd at h
  split at h
  · obtain ⟨-, hn, rfl⟩ := execSend_cases h
    exact hi.of_encoder rfl h ((blockInv_iff.mp hi).1.latchSend hn)
  · obtain ⟨-, rfl⟩ := execDecode_cases h
    exact hi.of_decoder rfl h (decoderInv_startDecode s)

theorem BlockInv.advance {s : State} (hi : BlockInv s) : BlockInv (advance s) := hi

theorem BlockInv.step {s t : State} (hi : BlockInv s) (h : step s = .next t) : BlockInv t := by
  obtain ⟨w, ws, -, h⟩ | ⟨i, -, hop, h⟩ | ⟨i, -, hop, h⟩ | ⟨-, -, -, rfl⟩ := step_cases h
  · exact hi.advance.exec_decodeCmd h
  · exact hi.advance.of_encoder (encOp_agent hop) h ((blockInv_iff.mp hi.advance).1.exec_encOp hop h)
  · exact hi.advance.of_decoder (decOp_agent hop) h ((blockInv_iff.mp hi.advance).2.exec_decOp hop h)
  · exact hi

end Sys2Proof.Machine
end

section
/-! What a fetched operation makes of a step, and the ports of the boundary, case by case. -/

namespace Sys2Proof.Machine

/-! ### The step -/

theorem step_of_fetch {s : State} {i : Instr} (h : fetch s = some i) : step s = exec i (advance s) := by
  rw [step, h]

theorem step_of_cmd {s : State} {w : CmdWord} {ws : List CmdWord} (h : s.cmd = w :: ws) :
    step s = exec (decodeCmd w) (advance s) :=
  step_of_fetch (fetch_cmd h)

theorem execSend_of_idle {n : Nat} {v : Value} {s : State} (he : s.ePhase = .idle) (h1 : 1 ≤ n) (h32 : n ≤ 32) :
    execSend n v s = .next (latchSend n v s) := by
  simp [execSend, startSend, he, h1, h32]

theorem execDecode_of_idle {s : State} (hd : s.dPhase = .idle) : execDecode s = .next (startDecode s) := by
  simp [execDecode, hd]

/-- The word of a legal `SEND` at the head of `CMD` starts an idle ENC (R91). -/
theorem step_sendWord {s : State} {n : Nat} {v : Value} {ws : List CmdWord} (hc : s.cmd = sendWord n v :: ws)
    (he : s.ePhase = .idle) (h1 : 1 ≤ n) (h32 : n ≤ 32) : step s = .next (latchSend n v (advance s)) := by
  have hw : decodeCmd (sendWord n v) = .send n v := by
    rw [decodeCmd, if_pos (cmdOp_sendWord n v), cmdNbits_sendWord v (by omega), cmdValue_sendWord]
  rw [step_of_cmd hc, hw]
  exact execSend_of_idle he h1 h32

/-- The word of a `DECODE` at the head of `CMD` starts an idle DEC (R111). -/
theorem step_decodeWord {s : State} {w : CmdWord} {ws : List CmdWord} (hc : s.cmd = w :: ws)
    (hw : decodeCmd w = .decode) (hd : s.dPhase = .idle) : step s = .next (startDecode (advance s)) := by
  rw [step_of_cmd hc, hw]
  exact execDecode_of_idle hd

/-! ### The ports -/

theorem readResult_of_some {α : Type} {r : Option α} {a : α} (h : r = some a) : readResult r = .ok a := by
  rw [h]; rfl

theorem readResult_of_none {α : Type} {r : Option α} (h : r = none) : readResult r = .error .noValue := by
  rw [h]; rfl

theorem captureFill_of_idle {raw : List Duration} {s : State} (h : s.dPhase = .idle) :
    captureFill raw s = .next { s with raw := raw } := by
  simp [captureFill, h]

theorem captureFill_of_busy {raw : List Duration} {s : State} (h : s.dPhase ≠ .idle) :
    captureFill raw s = .refused .captureBusy := by
  simp [captureFill, h]

end Sys2Proof.Machine
end

section
/-! The statements of the family of `10_state.md`, settled. -/

namespace Sys2Proof.Proofs

open Sys2Proof.Machine Sys2Proof.Claims

/-! ### The invariant -/

/-- Settles O44: each agent's operation keeps its agent's part of the invariant, and the other part by its frame. -/
theorem everyStepKeepsTheInvariant : Obligations.EveryStepKeepsTheInvariant := by
  unfold Obligations.EveryStepKeepsTheInvariant
  intro s t hi h
  exact hi.step h

/-- Settles O43: after reset both agents are idle, nothing is driven and there is no result. -/
theorem invariantHoldsAtReset : Obligations.InvariantHoldsAtReset := by
  unfold Obligations.InvariantHoldsAtReset
  have hidx : IndexFits State.reset := by simp [IndexFits, State.reset]
  have henc : EncInv State.reset := encInv_iff.mpr ⟨hidx, rfl, List.nil_suffix⟩
  have hres : ResultInv State.reset := by simp [ResultInv, State.reset]
  exact ⟨henc, decInv_of_idle rfl, hres, by decide⟩

/-! ### Frames -/

/-- Settles O50, from the two things an operation of ENC can do: latch its operands, or drive an event. -/
theorem encoderLeavesTheDecoderAlone : Obligations.EncoderLeavesTheDecoderAlone := by
  unfold Obligations.EncoderLeavesTheDecoderAlone
  intro i s t ha h
  exact exec_enc_frame ha h

/-- Settles O51, from the effects an operation of DEC can have. -/
theorem decoderLeavesTheEncoderAlone : Obligations.DecoderLeavesTheEncoderAlone := by
  unfold Obligations.DecoderLeavesTheEncoderAlone
  intro i s t ha h
  exact exec_dec_frame ha h

/-- Settles O52: an operation of ENC latches or drives one event, and one of DEC keeps all of ENC. -/
theorem driveStreamOnlyGrows : Obligations.DriveStreamOnlyGrows := by
  unfold Obligations.DriveStreamOnlyGrows
  intro i s t h
  cases ha : i.agent with
  | enc =>
    obtain ⟨hi, n, v, rfl⟩ | ⟨hi, k, d, p, j, hd, rfl⟩ := exec_enc_cases ha h
    · exact ⟨fun hm => absurd hm hi, fun _ => ⟨rfl, rfl⟩⟩
    · refine ⟨fun _ => ⟨k, d, rfl, ?_, hd⟩, fun hm => absurd hi hm⟩
      rintro rfl
      rfl
  | dec =>
    obtain ⟨⟨-, -, -, -, hc, ht⟩, -⟩ := exec_dec_frame ha h
    refine ⟨fun hm => ?_, fun _ => ⟨ht, hc⟩⟩
    have henc : ∀ j ∈ [Instr.eHmark, .eHspace, .eBmark, .eBspace, .eTerm, .eOff], j.agent = .enc := by decide
    rw [henc i hm] at ha
    cases ha

/-- Settles O53: an operation of ENC keeps the cursor, one of DEC that starts no pass keeps it or moves it by one. -/
theorem cursorNeverMovesBack : Obligations.CursorNeverMovesBack := by
  unfold Obligations.CursorNeverMovesBack
  intro i s t h hdecode hstart
  cases ha : i.agent with
  | enc =>
    obtain ⟨⟨-, ho, -⟩, -⟩ := exec_enc_frame ha h
    omega
  | dec =>
    obtain ⟨hi, -⟩ | he := exec_dec_cases ha h
    · exact absurd hi (by simp [hdecode, hstart])
    · exact he.cursor

/-- Settles O54: while DEC is idle and no `DECODE` is issued, only ENC can move, and ENC keeps the results. -/
theorem resultsHoldUntilTheNextDecode : Obligations.ResultsHoldUntilTheNextDecode := by
  unfold Obligations.ResultsHoldUntilTheNextDecode
  intro s t hidle hcmd h
  have hframe : ∀ i : Instr, i.agent = .enc → exec i (advance s) = .next t → sameResult s t := fun i ha h => by
    obtain ⟨⟨-, -, -, -, -, hres⟩, -⟩ := exec_enc_frame ha h
    exact hres
  obtain ⟨w, ws, hc, h⟩ | ⟨i, -, hop, h⟩ | ⟨i, -, hop, -⟩ | ⟨-, -, -, rfl⟩ := step_cases h
  · exact hframe _ (decodeCmd_agent_of_ge (hcmd w (by simp [hc]))) h
  · exact hframe i (encOp_agent hop) h
  · rw [hidle] at hop
    cases hop
  · simp [sameResult]

/-- Settles O55: every operation keeps the boundary, the buffer and the matcher with it. -/
theorem bufferAndMatcherNeverChange : Obligations.BufferAndMatcherNeverChange := by
  unfold Obligations.BufferAndMatcherNeverChange
  intro s t h
  have hframe : ∀ i : Instr, exec i (advance s) = .next t → t.raw = s.raw ∧ t.matcher = s.matcher := fun i h => by
    obtain ⟨hraw, -, hmt, -⟩ := exec_sameBoundary h
    exact ⟨hraw, hmt⟩
  obtain ⟨w, ws, -, h⟩ | ⟨i, -, -, h⟩ | ⟨i, -, -, h⟩ | ⟨-, -, -, rfl⟩ := step_cases h
  · exact hframe _ h
  · exact hframe i h
  · exact hframe i h
  · exact ⟨rfl, rfl⟩

/-! ### Reset, configuration, phases -/

/-- Settles O1: each field of `State.reset` is the value R39 gives. -/
theorem resetLeavesTheSpecValues : Obligations.ResetLeavesTheSpecValues := by
  unfold Obligations.ResetLeavesTheSpecValues
  exact ⟨rfl, rfl, rfl, rfl, rfl, rfl, rfl, rfl, rfl⟩

/-- Settles O3: a duration is at most 4400, below `2 ^ 13`, which a width of at least 13 holds; the other registers have a
width of 6 or 7. -/
theorem configurationRegistersAreHardwired : Obligations.ConfigurationRegistersAreHardwired := by
  unfold Obligations.ConfigurationRegistersAreHardwired
  have hw : 13 ≤ Config.wDur := Nat.le_add_right 13 _
  have hdur : 4400 < 2 ^ Config.wDur := lt_of_lt_of_le (by decide) (Nat.pow_le_pow_right (by decide) hw)
  refine ⟨by decide, rfl, hw, fun n => ?_⟩
  fin_cases n <;> simp [readCfg, cfgWidth] <;> omega

/-- Settles O8: `decode_encPhase` and `decode_decPhase` read the micro-operation from the phase; the codes are the tables'. -/
theorem phaseSelectsItsMicroOperation : Obligations.PhaseSelectsItsMicroOperation := by
  unfold Obligations.PhaseSelectsItsMicroOperation
  simp only [decode_encPhase, decode_decPhase]
  refine ⟨⟨rfl, rfl, rfl, rfl, rfl, rfl⟩, ⟨rfl, rfl, rfl, rfl, rfl⟩, fun p => ?_, fun p => ?_⟩
  · cases p <;> decide
  · cases p <;> decide

/-! ### The step -/

/-- Settles O9: the fetch takes the oldest word of `CMD`. -/
theorem stepRunsTheIssuedCommand : Obligations.StepRunsTheIssuedCommand := by
  unfold Obligations.StepRunsTheIssuedCommand
  intro s w ws i hc hd
  cases hd
  exact step_of_cmd hc

/-- Settles O10: with no word in `CMD` the fetch takes the micro-operation of the agent that moves. -/
theorem stepRunsTheSelectedMicroOperation : Obligations.StepRunsTheSelectedMicroOperation := by
  unfold Obligations.StepRunsTheSelectedMicroOperation
  intro s i hc
  refine ⟨fun he hturn hop => ?_, fun hd hturn hop => ?_⟩
  · exact step_of_fetch ((fetch_enc hc he hturn).trans (decode_encPhase.mp hop))
  · exact step_of_fetch ((fetch_dec hc hd hturn).trans (decode_decPhase.mp hop))

/-! ### The boundary -/

/-- Settles O56: by `ResultInv` the result registers hold values exactly when the status is `ACCEPTED`. -/
theorem hostReadsAResultOnlyWhenAccepted : Obligations.HostReadsAResultOnlyWhenAccepted := by
  unfold Obligations.HostReadsAResultOnlyWhenAccepted
  rintro s ⟨-, -, ⟨-, hn, hv, hp, hlen, htag, -⟩, -⟩
  refine ⟨fun ha => ?_, fun ha => ?_⟩
  · obtain ⟨n, hn⟩ := Option.isSome_iff_exists.mp (hn.mp ha)
    obtain ⟨v, hv⟩ := Option.isSome_iff_exists.mp (hv.mp ha)
    obtain ⟨t, hp⟩ := Option.isSome_iff_exists.mp (hp.mp ha)
    obtain rfl := htag t hp
    exact ⟨n, v, readResult_of_some hn, hlen n hn, readResult_of_some hv, readResult_of_some hp⟩
  · have hnone : ∀ {α : Type} {r : Option α}, (s.rStatus = .accepted ↔ r.isSome = true) →
        readResult r = .error .noValue := fun h => readResult_of_none (by simpa using mt h.mpr ha)
    exact ⟨hnone hn, hnone hv, hnone hp⟩

/-- Settles O57: the two words are fetched in the order of the writes, and each finds its agent idle. -/
theorem boundaryActionsDoWhatTheySay : Obligations.BoundaryActionsDoWhatTheySay := by
  unfold Obligations.BoundaryActionsDoWhatTheySay
  intro s w raw
  refine ⟨rfl, fun n v hrest h1 h32 hdec => ?_, fun hd => captureFill_of_idle hd, fun hd => captureFill_of_busy hd⟩
  obtain ⟨hc, he, hd⟩ := hrest
  have hw : decodeCmd w = .decode := Except.ok.inj hdec
  constructor
  · have hsend := step_sendWord (v := v) (s := hostIssue w (hostIssue (sendWord n v) s)) (ws := [w])
      (by simp [hc]) he h1 h32
    have hdecode := step_decodeWord (s := latchSend n v (advance (hostIssue w (hostIssue (sendWord n v) s)))) (ws := [])
      (by simp [hc]) hw hd
    exact ⟨_, _, hsend, hdecode, by simp [startDecode, decodeStarted, latchSend, advance, hostIssue, hc]⟩
  · have hdecode := step_decodeWord (s := hostIssue (sendWord n v) (hostIssue w s)) (ws := [sendWord n v])
      (by simp [hc]) hw hd
    have hsend := step_sendWord (v := v) (s := startDecode (advance (hostIssue (sendWord n v) (hostIssue w s)))) (ws := [])
      (by simp [hc]) he h1 h32
    exact ⟨_, _, hdecode, hsend, by simp [startDecode, decodeStarted, latchSend, advance, hostIssue, hc]⟩

end Sys2Proof.Proofs
end

section
/-! The map of the capture buffer, index by index, and what an acceptance needs of it (`20_memory.md` R43, `41_decoder.md`
R119). -/

namespace Sys2Proof.Machine

/-! ### What is expected at each index -/

theorem expectedAt_headerMark (n : Nat) : expectedAt n 1 = [4400] := rfl

theorem expectedAt_headerSpace (n : Nat) : expectedAt n 2 = [4400] := rfl

theorem expectedAt_bitMark {n k : Nat} (hn : k < n) (h32 : k < 32) : expectedAt n (3 + 2 * k) = [550] := by
  have hrole : roleOf n (3 + 2 * k) = .bitMark k := by
    rw [roleOf, if_neg (by omega), if_neg (by omega), if_neg (by omega), if_pos (by omega), if_pos (by omega)]
    congr 1; omega
  simp [expectedAt, hrole, h32]

theorem expectedAt_bitSpace {n k : Nat} (hn : k < n) (h32 : k < 32) : expectedAt n (4 + 2 * k) = [1600, 550] := by
  have hrole : roleOf n (4 + 2 * k) = .bitSpace k := by
    rw [roleOf, if_neg (by omega), if_neg (by omega), if_neg (by omega), if_pos (by omega), if_neg (by omega)]
    congr 1; omega
  simp [expectedAt, hrole, h32]

/-- Indices 1 to 66 are the header and a mark and a space for each of the 32 bit positions (R43). -/
theorem forall_readIndex_iff {P : Nat → Prop} :
    (∀ i, 1 ≤ i → i ≤ 66 → P i) ↔ P 1 ∧ P 2 ∧ ∀ k, k < 32 → P (3 + 2 * k) ∧ P (4 + 2 * k) := by
  refine ⟨fun h => ⟨h 1 (by decide) (by decide), h 2 (by decide) (by decide), fun k hk =>
    ⟨h _ (by omega) (by omega), h _ (by omega) (by omega)⟩⟩, fun ⟨hmark, hspace, hbits⟩ i h1 h66 => ?_⟩
  obtain rfl | rfl | ⟨k, hk, rfl | rfl⟩ : i = 1 ∨ i = 2 ∨ ∃ k, k < 32 ∧ (i = 3 + 2 * k ∨ i = 4 + 2 * k) := by
    by_cases hi : i ≤ 2
    · omega
    · exact .inr (.inr ⟨(i - 3) / 2, by omega, by omega⟩)
  · exact hmark
  · exact hspace
  · exact (hbits k hk).1
  · exact (hbits k hk).2

/-! ### What an acceptance needs -/

section
variable {mt : Duration → Duration → Bool} {raw : List Duration}

theorem classify_isSome_iff {d : Duration} :
    (classify mt d).isSome = true ↔ mt d 1600 = true ∨ mt d 550 = true := by
  cases h1 : mt d 1600 with
  | true => simp [classify_eq_one h1]
  | false =>
    cases h0 : mt d 550 with
    | true => simp [classify_eq_zero h1 h0]
    | false => simp [classify_eq_none h1 h0]

/-- A position classifies when its mark matches and its space matches one of the two spaces (R119). -/
theorem classifyPos_isSome_iff {k : Nat} :
    (classifyPos mt raw k).isSome = true ↔
      mt (raw.getD (3 + 2 * k) 0) 550 = true ∧
        (mt (raw.getD (4 + 2 * k) 0) 1600 = true ∨ mt (raw.getD (4 + 2 * k) 0) 550 = true) := by
  rw [← classify_isSome_iff, classifyPos, Config.hw_bitMark]
  cases mt (raw.getD (3 + 2 * k) 0) 550 with
  | true => simp only [if_true, true_and]
  | false => simp

theorem classifyAll_isSome_iff {j : Nat} :
    (classifyAll mt raw j).isSome = true ↔ ∀ k, k < j → (classifyPos mt raw k).isSome = true := by
  induction j with
  | zero => simp [classifyAll]
  | succ j ih =>
    rw [Nat.forall_lt_succ_right, ← ih, classifyAll]
    cases classifyAll mt raw j <;> cases classifyPos mt raw j <;> simp

/-- `Decode` accepts with count `n` exactly when every check passes and every position classifies. -/
theorem exists_decodeFrame_accepted_iff {n : Nat} :
    (∃ v t, decodeFrame mt raw = .accepted n v t) ↔
      3 ≤ raw.length ∧ n = apparentCount raw.length ∧ n ∈ [56, 72, 80] ∧ mt (raw.getD 1 0) 4400 = true ∧
        mt (raw.getD 2 0) 4400 = true ∧ ∀ k, k < 32 → (classifyPos mt raw k).isSome = true := by
  rw [← classifyAll_isSome_iff]
  constructor
  · rintro ⟨v, t, h⟩
    obtain ⟨h3, hmark, hn, hmem, hspace, bits, hbits, -, -⟩ := decodeFrame_accepted h
    exact ⟨h3, hn, hmem, hmark, hspace, by rw [hbits]; rfl⟩
  · rintro ⟨h3, rfl, hmem, hmark, hspace, hbits⟩
    obtain ⟨bits, hbits⟩ := Option.isSome_iff_exists.mp hbits
    exact ⟨_, _, decodeFrame_of_bits h3 hmark hmem hspace hbits⟩

/-- The map of a buffer of a supported length, written out for the header and each bit position (R43, R72). -/
theorem matches_map_iff {n : Nat} (hn : n ∈ [56, 72, 80]) :
    (∀ i, 1 ≤ i → i ≤ 66 → (expectedAt n i).any (fun e => mt (raw.getD i 0) e) = true) ↔
      mt (raw.getD 1 0) 4400 = true ∧ mt (raw.getD 2 0) 4400 = true ∧
        ∀ k, k < 32 → (classifyPos mt raw k).isSome = true := by
  have h32 : 32 < n := by simp at hn; omega
  rw [forall_readIndex_iff, expectedAt_headerMark, expectedAt_headerSpace]
  have hpos : ∀ k, k < 32 →
      (((expectedAt n (3 + 2 * k)).any (fun e => mt (raw.getD (3 + 2 * k) 0) e) = true ∧
        (expectedAt n (4 + 2 * k)).any (fun e => mt (raw.getD (4 + 2 * k) 0) e) = true) ↔
        (classifyPos mt raw k).isSome = true) := fun k hk => by
    rw [expectedAt_bitMark (by omega) hk, expectedAt_bitSpace (by omega) hk, classifyPos_isSome_iff]
    simp
  rw [forall₂_congr hpos]
  simp

end

end Sys2Proof.Machine
end

section
/-! Every access from a good state is in range, so the block goes on (`20_memory.md` R51, `41_decoder.md` R120); and an idle
DEC allows every buffer (R56). -/

namespace Sys2Proof.Machine

open Sys2Proof.Claims

/-! ### An access in range is answered, one out of range faults -/

theorem checkElement_answers {s : State} {e : Duration} {kind : RejectKind} {p : DPhase}
    (h : s.dOffset < s.raw.length) : ∃ t, checkElement e kind p s = .next t := by
  have hr := List.getElem?_eq_getElem h
  cases hm : s.matchDur s.raw[s.dOffset] e with
  | true => exact ⟨_, checkElement_pass hr hm⟩
  | false => exact ⟨_, checkElement_fail hr hm⟩

theorem execDBspace_answers {s : State} (h : s.dOffset < s.raw.length) : ∃ t, execDBspace s = .next t := by
  rw [execDBspace_of_some (List.getElem?_eq_getElem h)]
  cases classify s.matchDur s.raw[s.dOffset] with
  | some b => exact ⟨_, rfl⟩
  | none => exact ⟨_, rfl⟩

theorem execDBspace_range {s : State} (h : s.raw.length ≤ s.dOffset) : execDBspace s = .fault .captureRange := by
  simp [execDBspace, cursorRead, memRead_of_none h]

theorem execDHmark_of_long {s : State} (h : 3 ≤ s.raw.length) :
    execDHmark s = checkElement 4400 .headerMismatch .len s :=
  if_neg (Nat.not_lt.mpr h)

theorem execDHmark_answers {s : State} (h : 3 ≤ s.raw.length → s.dOffset < s.raw.length) :
    ∃ t, execDHmark s = .next t := by
  by_cases h3 : 3 ≤ s.raw.length
  · rw [execDHmark_of_long h3]; exact checkElement_answers (h h3)
  · exact ⟨_, if_pos (Nat.not_le.mp h3)⟩

theorem execDLen_of_short {s : State} (h : s.raw.length < 3) : execDLen s = .fault .lengthUnderflow :=
  if_pos h

theorem execDLen_answers {s : State} (h : 3 ≤ s.raw.length) : ∃ t, execDLen s = .next t := by
  unfold execDLen
  rw [Config.hw_overhead, if_neg (Nat.not_lt.mpr h)]
  split
  · exact ⟨_, rfl⟩
  · exact ⟨_, rfl⟩

theorem execEBspace_answers {s : State} (h : s.eIdx < 32) : ∃ t, execEBspace s = .next t := by
  rw [execEBspace, bitOperand_of_lt h, withOperand_ok]
  split
  · exact ⟨_, rfl⟩
  · exact ⟨_, rfl⟩

theorem execEBspace_range {s : State} (h : 32 ≤ s.eIdx) : execEBspace s = .fault .bitIndexRange := by
  rw [execEBspace, bitOperand_of_ge h, withOperand_error]

/-! ### Each agent's micro-operation, and a legal command -/

/-- A buffer with a supported count holds every element up to bit position 31 (R43, R51). -/
theorem CountPassed.lt_length {s : State} (h : CountPassed s) : 66 < s.raw.length := by
  obtain ⟨hn, hm⟩ := h
  simp [apparentCount] at hn hm
  omega

theorem encOp_answers {i : Instr} {s : State} (hx : s.eIdx < 32) (hop : encOp s.ePhase = some i) :
    ∃ t, exec i s = .next t := by
  cases hp : s.ePhase with
  | idle => exact absurd hp (encOp_busy hop)
  | bspace => rw [hp] at hop; cases hop; exact execEBspace_answers hx
  | hmark | hspace | bmark | term | off => rw [hp] at hop; cases hop; exact ⟨_, rfl⟩

theorem decOp_answers {i : Instr} {s : State} (hi : DecInv s) (hop : decOp s.dPhase = some i) :
    ∃ t, exec i s = .next t := by
  cases hp : s.dPhase with
  | idle => rw [hp] at hop; cases hop
  | hmark =>
    obtain ⟨ho, -, -⟩ := (decInv_iff_of_hmark hp).mp hi
    rw [hp] at hop; cases hop
    exact execDHmark_answers fun h3 => by omega
  | len =>
    obtain ⟨-, h3, -⟩ := (decInv_iff_of_len hp).mp hi
    rw [hp] at hop; cases hop
    exact execDLen_answers h3
  | hspace =>
    obtain ⟨⟨ho, -, -⟩, ⟨h3, -⟩, -⟩ := (decInv_iff_of_hspace hp).mp hi
    rw [hp] at hop; cases hop
    exact checkElement_answers (by omega)
  | bmark =>
    obtain ⟨ho, -, hcount, hI, -, -⟩ := (decInv_iff_of_bmark hp).mp hi
    have hl := hcount.lt_length
    rw [hp] at hop; cases hop
    exact checkElement_answers (by omega)
  | bspace =>
    obtain ⟨⟨ho, -⟩, -, hcount, hI, -, -⟩ := (decInv_iff_of_bspace hp).mp hi
    have hl := hcount.lt_length
    rw [hp] at hop; cases hop
    exact execDBspace_answers (by omega)

/-- A legal command finds its agent idle and its operands in range. -/
theorem decodeCmd_answers {w : CmdWord} {s : State} (h : commandLegal s w) : ∃ t, exec (decodeCmd w) s = .next t := by
  unfold commandLegal at h
  unfold decodeCmd
  split
  · rename_i ho
    rw [if_pos ho] at h
    obtain ⟨he, h1, h32⟩ := h
    exact ⟨_, execSend_of_idle he h1 h32⟩
  · rename_i ho
    rw [if_neg ho] at h
    exact ⟨_, execDecode_of_idle h⟩

/-! ### An idle DEC -/

/-- An idle DEC promises nothing of the buffer and the matcher, so the invariant holds whatever they are. -/
theorem BlockInv.of_same_of_idle {s t : State} (hi : BlockInv s) (he : sameEncoder s t) (hd : sameDecoder s t)
    (hidle : t.dPhase = .idle) : BlockInv t := by
  obtain ⟨henc, -, hres, hoff, hcnt⟩ := blockInv_iff.mp hi
  obtain ⟨-, ho, -, -, hI, hr⟩ := hd
  have hres' : ResultInv t := hres.of_same hr fun h => absurd hidle h
  exact blockInv_iff.mpr ⟨henc.of_same he, decInv_of_idle hidle, hres', ho ▸ hoff, hI ▸ hcnt⟩

end Sys2Proof.Machine
end

section
/-! The statements of the family of `20_memory.md`, settled. -/

namespace Sys2Proof.Proofs

open Sys2Proof.Machine Sys2Proof.Claims

/-- Settles O37: an acceptance passes the checks of the header and classifies 32 positions, and these are what the map of the
buffer expects at indices 1 to 66. -/
theorem acceptanceIsTheMapOfTheBuffer : Obligations.AcceptanceIsTheMapOfTheBuffer := by
  unfold Obligations.AcceptanceIsTheMapOfTheBuffer
  intro mt raw n
  rw [exists_decodeFrame_accepted_iff]
  refine and_congr_right fun _ => and_congr_right fun _ => and_congr_right fun hn => ?_
  exact (matches_map_iff hn).symm

/-- Settles O45: a command word is no register of the invariant, a fill changes the buffer of an idle DEC only, and the reset
input leaves the reset state with another buffer and matcher. -/
theorem boundaryActionsKeepTheInvariant : Obligations.BoundaryActionsKeepTheInvariant := by
  unfold Obligations.BoundaryActionsKeepTheInvariant
  intro s hi
  refine ⟨fun w => hi, fun raw t h => ?_, ?_⟩
  · by_cases hd : s.dPhase = .idle
    · rw [captureFill_of_idle hd] at h
      cases h
      exact hi.of_same_of_idle (by simp [sameEncoder]) (by simp [sameDecoder, sameResult]) hd
    · rw [captureFill_of_busy hd] at h
      cases h
  · exact BlockInv.of_same_of_idle invariantHoldsAtReset (by simp [sameEncoder]) (by simp [sameDecoder, sameResult]) rfl

/-- Settles O46: the command is legal, the index of ENC is below 32, and the cursor of DEC is inside the buffer. -/
theorem goodStatesNeverStop : Obligations.GoodStatesNeverStop := by
  unfold Obligations.GoodStatesNeverStop
  intro s hi hcmd
  obtain ⟨⟨-, -, hx⟩, hdec, -⟩ := blockInv_iff.mp hi.advance
  obtain ⟨w, ws, hc, hs⟩ | ⟨i, -, -, hop, hs⟩ | ⟨i, -, -, hop, hs⟩ | ⟨-, -, -, hs⟩ := step_shape s
  · have hw : commandLegal s w := hcmd w (by simp [hc])
    rw [hs]; exact decodeCmd_answers (s := advance s) hw
  · rw [hs]; exact encOp_answers hx hop
  · rw [hs]; exact decOp_answers hdec hop
  · exact ⟨s, hs⟩

/-- Settles O18: each operand out of its range faults before anything is done with it. -/
theorem undefinedAccessesFault : Obligations.UndefinedAccessesFault := by
  unfold Obligations.UndefinedAccessesFault
  intro s
  refine ⟨execEBspace_range, execDLen_of_short, fun ho => ⟨fun h3 => ?_, ?_, ?_, ?_⟩⟩
  · exact (execDHmark_of_long h3).trans (checkElement_range ho)
  · exact checkElement_range ho
  · exact checkElement_range ho
  · exact execDBspace_range ho

end Sys2Proof.Proofs
end

section
/-! What the decoder reads from a command word, and that the encoder writes it (`30_encoding.md` R75 to R77). -/

namespace Sys2Proof

theorem decode_cmd (w : CmdWord) : decode (.cmd w) = .ok (decodeCmd w) := rfl

theorem decodeCmd_of_op {w : CmdWord} (h : cmdOp w = true) : decodeCmd w = .send (cmdNbits w) (cmdValue w) := by
  rw [decodeCmd, if_pos h]

theorem decodeCmd_of_not_op {w : CmdWord} (h : cmdOp w = false) : decodeCmd w = .decode := by
  rw [decodeCmd, h, if_neg Bool.false_ne_true]

theorem decodeCmd_eq_send_iff {w : CmdWord} {n : Nat} {v : Value} :
    decodeCmd w = .send n v ↔ cmdOp w = true ∧ cmdNbits w = n ∧ cmdValue w = v := by
  cases h : cmdOp w with
  | true => simp [decodeCmd_of_op h]
  | false => simp [decodeCmd_of_not_op h]

theorem decodeCmd_sendWord {n : Nat} (v : Value) (h : n < 128) : decodeCmd (sendWord n v) = .send n v :=
  decodeCmd_eq_send_iff.mpr ⟨cmdOp_sendWord n v, cmdNbits_sendWord v h, cmdValue_sendWord n v⟩

theorem decodeEStart_sendWord {n : Nat} (v : Value) (h : nbitsLegal n = true) :
    decodeEStart (some (sendWord n v)) = .ok (.eStart n v) := by
  have hn : cmdNbits (sendWord n v) = n := cmdNbits_sendWord v (by have := nbitsLegal_iff.mp h; omega)
  rw [decodeEStart, if_pos (cmdOp_sendWord n v), hn, if_pos h, cmdValue_sendWord]

/-! ### The fields as arithmetic on the word -/

theorem cmdNbits_eq (w : CmdWord) : cmdNbits w = w.toNat / 2 ^ 32 % 128 := by
  rw [cmdNbits, BitVec.extractLsb'_toNat, Nat.shiftRight_eq_div_pow]

theorem cmdNbits_lt (w : CmdWord) : cmdNbits w < 128 := (w.extractLsb' 32 7).isLt

theorem cmdValue_eq (w : CmdWord) : cmdValue w = BitVec.ofNat 32 (w.toNat % 2 ^ 32) := by
  apply BitVec.eq_of_toNat_eq
  rw [cmdValue, BitVec.extractLsb'_toNat, BitVec.toNat_ofNat, Nat.mod_mod, Nat.shiftRight_zero]

end Sys2Proof
end

section
/-! The frame of a list of bits and the number the bits spell (`30_encoding.md` R60 to R68, `40_encoder.md` R99). -/

namespace Sys2Proof.Machine

/-! ### The bits of a frame -/

section
variable {w : Nat}

@[simp] theorem frameBits_length (n : Nat) (v : BitVec w) : (frameBits n v).length = n := by simp [frameBits]

theorem frameBits_getElem? {n k : Nat} (v : BitVec w) (h : k < n) :
    (frameBits n v)[k]? = some (v.getLsbD (n - 1 - k)) := by
  rw [frameBits, List.getElem?_map, List.getElem?_range h, Option.map_some]

theorem frameBits_getD {n k : Nat} (v : BitVec w) (h : k < n) : (frameBits n v).getD k false = v.getLsbD (n - 1 - k) := by
  rw [List.getD_eq_getElem?_getD, frameBits_getElem? v h, Option.getD_some]

theorem frameBits_congr {n : Nat} {v v' : BitVec w} (h : ∀ k, k < n → v.getLsbD k = v'.getLsbD k) :
    frameBits n v = frameBits n v' :=
  List.map_congr_left fun k hk => h (n - 1 - k) (by have := List.mem_range.mp hk; omega)

/-- The value that bits spell holds the first of them on top (R68). -/
theorem getLsbD_ofNat_bitsToNat {bits : List Bool} {k : Nat} (hl : bits.length = w) (hk : k < w) :
    (BitVec.ofNat w (bitsToNat bits)).getLsbD (w - 1 - k) = bits.getD k false := by
  subst hl
  rw [BitVec.getLsbD_ofNat, bitsToNat_testBit bits k hk, decide_eq_true (by omega), Bool.true_and]

theorem frameBits_ofNat_bitsToNat {bits : List Bool} (hl : bits.length = w) :
    frameBits w (BitVec.ofNat w (bitsToNat bits)) = bits := by
  apply List.ext_getElem?
  intro k
  by_cases hk : k < w
  · rw [frameBits_getElem? _ hk, getLsbD_ofNat_bitsToNat hl hk, List.getD_eq_getElem?_getD,
      List.getElem?_eq_getElem (by omega), Option.getD_some]
  · rw [List.getElem?_eq_none (by simp; omega), List.getElem?_eq_none (by omega)]

/-- Values of one width with the same bits, counted from the top, are equal. -/
theorem eq_of_getLsbD_from_top {v v' : BitVec w} (h : ∀ k, k < w → v.getLsbD (w - 1 - k) = v'.getLsbD (w - 1 - k)) :
    v = v' :=
  BitVec.eq_of_getMsbD_eq fun k hk => by rw [BitVec.getMsbD_eq_getLsbD, BitVec.getMsbD_eq_getLsbD, h k hk]

/-- All the bits of a value spell it. -/
theorem ofNat_bitsToNat_frameBits (v : BitVec w) : BitVec.ofNat w (bitsToNat (frameBits w v)) = v :=
  eq_of_getLsbD_from_top fun k hk => by
    rw [getLsbD_ofNat_bitsToNat (frameBits_length w v) hk, frameBits_getD v hk]

end

/-! ### The frame of bits -/

/-- The frame of bits on the medium: the intervals of its symbols (R64). -/
def frameIntervals (bits : List Bool) : List (Kind × Duration) := (frameSymbols bits).flatMap Symbol.intervals

section
variable {w : Nat} (n : Nat) (v : BitVec w)

/-- `Encode` is the frame of the value's bits and the final `Drive(S, 0)` (R99). -/
theorem encodeFrame_eq_frameIntervals : encodeFrame n v = frameIntervals (frameBits n v) ++ [(.space, 0)] := by
  simp [encodeFrame, frameIntervals, frameSymbols, frameBits, Symbol.intervals, List.flatMap_map, List.append_assoc]

theorem encodeFrame_dropLast_eq_frameIntervals : (encodeFrame n v).dropLast = frameIntervals (frameBits n v) := by
  rw [encodeFrame_eq_frameIntervals, List.dropLast_concat]

theorem frameIntervals_length : (frameIntervals (frameBits n v)).length = 2 * n + 3 := by
  rw [← encodeFrame_dropLast_eq_frameIntervals, List.length_dropLast, encodeFrame_length]; rfl

/-- The frame is `Encode` without its last event. -/
theorem frameIntervals_getElem? {j : Nat} (h : j < 2 * n + 3) :
    (frameIntervals (frameBits n v))[j]? = (encodeFrame n v)[j]? := by
  rw [← encodeFrame_dropLast_eq_frameIntervals, List.getElem?_dropLast, if_pos (by rw [encodeFrame_length]; omega)]

/-- The events of `Encode` are the header, a pair for each bit, the terminator and the idle. -/
theorem encodeFrame_index_cases {n j : Nat} (h : j < 2 * n + 4) :
    j = 0 ∨ j = 1 ∨ (∃ k, k < n ∧ (j = 2 + 2 * k ∨ j = 3 + 2 * k)) ∨ j = 2 + 2 * n ∨ j = 3 + 2 * n := by
  by_cases hbit : 2 ≤ j ∧ j < 2 + 2 * n
  · exact .inr (.inr (.inl ⟨(j - 2) / 2, by omega, by omega⟩))
  · omega

/-- Every event of `Encode` switches the carrier: marks at even and spaces at odd positions (R64). -/
theorem encodeFrame_kind {j : Nat} (h : j < 2 * n + 4) :
    (encodeFrame n v)[j]?.map Prod.fst = some (if j % 2 = 0 then .mark else .space) := by
  obtain rfl | rfl | ⟨k, hk, rfl | rfl⟩ | rfl | rfl := encodeFrame_index_cases h
  · rfl
  · rfl
  · simp [encodeFrame_bitMark n v hk]
  · simp [encodeFrame_bitSpace n v hk, Nat.add_mod]
  · simp [encodeFrame_term n v]
  · simp [encodeFrame_off n v, Nat.add_mod]

end

/-- Every list of bits is the bits of a value, so every frame is sent by some `Encode`. -/
theorem exists_eq_frameBits (bits : List Bool) : ∃ (n : Nat) (v : BitVec n), bits = frameBits n v :=
  ⟨bits.length, _, (frameBits_ofNat_bitsToNat rfl).symm⟩

end Sys2Proof.Machine
end

section
/-! The classifications of an accepted buffer, and of a verbatim capture of a frame (`30_encoding.md` R68, `41_decoder.md`
R119, R127 b). -/

namespace Sys2Proof.Machine

section
variable {mt : Duration → Duration → Bool}

theorem classifyPos_of_mark {raw : List Duration} {k : Nat} (h : mt (raw.getD (3 + 2 * k) 0) 550 = true) :
    classifyPos mt raw k = classify mt (raw.getD (4 + 2 * k) 0) := by
  rw [classifyPos, Config.hw_bitMark, if_pos h]

theorem classify_of_classifyPos {raw : List Duration} {k : Nat} {b : Bool} (h : classifyPos mt raw k = some b) :
    classify mt (raw.getD (4 + 2 * k) 0) = some b := by
  rw [← h, classifyPos_of_mark (classifyPos_isSome_iff.mp (by rw [h]; rfl)).1]

/-- An accepted value holds the classification of bit position `k` at bit `31 - k` (R68). -/
theorem classify_of_decodeFrame_accepted {raw : List Duration} {n : Nat} {v : Value} {t : Tag}
    (h : decodeFrame mt raw = .accepted n v t) {k : Nat} (hk : k < 32) :
    classify mt (raw.getD (4 + 2 * k) 0) = some (v.getLsbD (31 - k)) := by
  obtain ⟨-, -, -, -, -, bits, hbits, rfl, -⟩ := decodeFrame_accepted h
  obtain ⟨hlen, hpos⟩ := classifyAll_iff.mp hbits
  apply classify_of_classifyPos
  rw [hpos k hk, getLsbD_ofNat_bitsToNat hlen hk, List.getD_eq_getElem?_getD, List.getElem?_eq_getElem (by omega),
    Option.getD_some]

/-! ### A verbatim capture of a frame -/

/-- The classifier undoes the bit-to-duration mapper (R62, R69). -/
theorem classify_spaceOf (hr : ReflexiveOnConstants mt) (hs : SeparatesSpaces mt) (b : Bool) :
    classify mt (spaceOf b) = some b := by
  obtain ⟨-, -, -, hone, hzero⟩ := hr
  cases b with
  | true => exact classify_eq_one hone
  | false => exact classify_eq_zero hs hzero

section
variable {w n : Nat} (v : BitVec w) (g : Duration)

theorem capture_getD {i : Nat} {e : Kind × Duration} (hi : i < 2 * n + 3) (he : (encodeFrame n v)[i]? = some e) :
    (capture g (encodeFrame n v)).getD (i + 1) 0 = e.2 :=
  getD_of_getElem? (by rw [capture_getElem? n v g hi, he, Option.map_some])

theorem classifyPos_capture (hr : ReflexiveOnConstants mt) (hs : SeparatesSpaces mt) {k : Nat} (hk : k < n) :
    classifyPos mt (capture g (encodeFrame n v)) k = some (v.getLsbD (n - 1 - k)) := by
  have hmark : (capture g (encodeFrame n v)).getD (3 + 2 * k) 0 = 550 := by
    rw [show 3 + 2 * k = 2 + 2 * k + 1 by omega]
    exact capture_getD v g (by omega) (encodeFrame_bitMark n v hk)
  have hspace : (capture g (encodeFrame n v)).getD (4 + 2 * k) 0 = spaceOf (v.getLsbD (n - 1 - k)) := by
    rw [show 4 + 2 * k = 3 + 2 * k + 1 by omega]
    exact capture_getD v g (by omega) (encodeFrame_bitSpace n v hk)
  have ⟨_, _, hbit, _, _⟩ := hr
  rw [classifyPos_of_mark (by rw [hmark]; exact hbit), hspace, classify_spaceOf hr hs]

/-- The 32 positions of a capture classify as the top 32 of the bits sent (R50). -/
theorem classifyAll_capture (hr : ReflexiveOnConstants mt) (hs : SeparatesSpaces mt) (hn : 32 ≤ n) :
    classifyAll mt (capture g (encodeFrame n v)) 32 = some (frameBits 32 (v.extractLsb' (n - 32) 32)) := by
  refine classifyAll_iff.mpr ⟨frameBits_length 32 _, fun k hk => ?_⟩
  rw [classifyPos_capture v g hr hs (by omega), frameBits_getElem? _ hk, BitVec.getLsbD_extractLsb',
    decide_eq_true (by omega), Bool.true_and, show n - 32 + (32 - 1 - k) = n - 1 - k by omega]

/-- The round trip of a widened frame (not this hardware, log 23): the count comes back and the top 32 of
the bits sent (R127 b). -/
theorem decodeFrame_capture (hr : ReflexiveOnConstants mt) (hs : SeparatesSpaces mt) (hn : n ∈ [56, 72, 80]) :
    decodeFrame mt (capture g (encodeFrame n v)) = .accepted n (v.extractLsb' (n - 32) 32) Config.protoTag := by
  have hcount : apparentCount (capture g (encodeFrame n v)).length = n := by
    rw [capture_length, apparentCount, Config.hw_overhead]; omega
  have hn32 : 32 ≤ n := by simp at hn; omega
  have ⟨hmatchMark, hmatchSpace, _, _, _⟩ := hr
  have hmark : mt ((capture g (encodeFrame n v)).getD 1 0) 4400 = true := by
    rw [capture_getD v g (by omega) (encodeFrame_zero n v)]; exact hmatchMark
  have hspace : mt ((capture g (encodeFrame n v)).getD 2 0) 4400 = true := by
    rw [capture_getD v g (by omega) (encodeFrame_one n v)]; exact hmatchSpace
  rw [decodeFrame_of_bits (by rw [capture_length]; omega) hmark (by rwa [hcount]) hspace
    (classifyAll_capture v g hr hs hn32), hcount, ofNat_bitsToNat_frameBits]

end

end

end Sys2Proof.Machine
end

section
/-! The fields of the payload bytes as arithmetic, and the first four bytes of a payload's number (`30_encoding.md` R78 to
R84). -/

namespace Sys2Proof.Machine

section
variable (p : Payload)

theorem Payload.celsius_eq : p.celsius = p.b5.toNat % 16 + 17 := by
  rw [Payload.celsius, Payload.temperature, BitVec.extractLsb'_toNat, Nat.shiftRight_zero]

theorem Payload.fanSpeed_toNat : p.fanSpeed.toNat = p.b6.toNat % 8 := by
  rw [Payload.fanSpeed, BitVec.extractLsb'_toNat, Nat.shiftRight_zero]

theorem Payload.mode_toNat : p.mode.toNat = p.b6.toNat / 8 % 4 := by
  rw [Payload.mode, BitVec.extractLsb'_toNat, Nat.shiftRight_eq_div_pow]

theorem Payload.power_toNat : p.power.toNat = p.b6.toNat / 32 := by
  have := p.b6.isLt
  rw [Payload.power, BitVec.extractLsb'_toNat, Nat.shiftRight_eq_div_pow]
  omega

/-- The top 32 bits of a payload's number are its first four bytes, byte 0 on top (R84). -/
theorem Payload.frame_top : p.frame.extractLsb' 40 32 = p.b0 ++ p.b1 ++ p.b2 ++ p.b3 := by
  rw [Payload.frame, BitVec.extractLsb'_cast]
  iterate 5 rw [BitVec.extractLsb'_append_eq_of_le (by decide)]
  exact BitVec.extractLsb'_eq_self

end

/-- Byte 6 is the sum of its fields, each at its place (R81). -/
theorem packByte6_toNat (fan : BitVec 3) (mode : BitVec 2) (power : BitVec 3) :
    (packByte6 fan mode power).toNat = 32 * power.toNat + 8 * mode.toNat + fan.toNat := by
  rw [packByte6, BitVec.toNat_cast, BitVec.toNat_append, BitVec.toNat_append, ← Nat.shiftLeft_add_eq_or_of_lt mode.isLt,
    ← Nat.shiftLeft_add_eq_or_of_lt fan.isLt, Nat.shiftLeft_eq, Nat.shiftLeft_eq]
  omega

theorem extractLsb'_of_append_bytes (a b c d : Byte) :
    (a ++ b ++ c ++ d).extractLsb' 24 8 = a ∧ (a ++ b ++ c ++ d).extractLsb' 16 8 = b ∧
      (a ++ b ++ c ++ d).extractLsb' 8 8 = c ∧ (a ++ b ++ c ++ d).extractLsb' 0 8 = d := by
  refine ⟨?_, ?_, ?_, BitVec.extractLsb'_append_eq_right⟩
  · iterate 2 rw [BitVec.extractLsb'_append_eq_of_le (by decide)]
    exact BitVec.extractLsb'_append_eq_left
  · iterate 2 rw [BitVec.extractLsb'_append_eq_of_le (by decide)]
    exact BitVec.extractLsb'_append_eq_right
  · rw [BitVec.extractLsb'_append_eq_of_le (by decide)]
    exact BitVec.extractLsb'_append_eq_right

end Sys2Proof.Machine
end

section
/-! The statements of the family of `30_encoding.md`, settled. -/

namespace Sys2Proof.Proofs

open Sys2Proof.Machine Sys2Proof.Claims

/-! ### Encodings -/

/-- Settles O5: an operation with operands is selected by a word that holds them, every other by its phase alone. -/
theorem decodeOfEncodeIsIdentity : Obligations.DecodeOfEncodeIsIdentity := by
  unfold Obligations.DecodeOfEncodeIsIdentity
  intro i h
  cases i with
  | send n v => exact congrArg Except.ok (decodeCmd_sendWord v (of_decide_eq_true h))
  | eStart n v => exact decodeEStart_sendWord v h
  | dReject kind => cases kind <;> rfl
  | _ => rfl

/-- Settles O6: bit 39 is the comparison with `2 ^ 39`, and the fields are arithmetic on the word. -/
theorem everyCommandWordIsOneOfTheTwo : Obligations.EveryCommandWordIsOneOfTheTwo := by
  unfold Obligations.EveryCommandWordIsOneOfTheTwo
  intro w
  refine ⟨fun h => ?_, fun h => ?_⟩
  · have hop : cmdOp w = true := (cmdOp_eq w).trans (decide_eq_true h)
    rw [decode_cmd, decodeCmd_of_op hop, cmdNbits_eq, cmdValue_eq]
  · have hop : cmdOp w = false := (cmdOp_eq w).trans (decide_eq_false (Nat.not_le.mpr h))
    rw [decode_cmd, decodeCmd_of_not_op hop]

/-- Settles O7: a word whose op bit is 1 has no bit outside the fields it decodes to. -/
theorem sendWordsAreUnambiguous : Obligations.SendWordsAreUnambiguous := by
  unfold Obligations.SendWordsAreUnambiguous
  intro w n v h
  obtain ⟨hop, rfl, rfl⟩ := decodeCmd_eq_send_iff.mp (Except.ok.inj h)
  exact ⟨congrArg Select.cmd (sendWord_of_fields hop), cmdNbits_lt w⟩

/-- Settles O4: each word is decoded. -/
theorem tableWordsDecode : Obligations.TableWordsDecode := by
  unfold Obligations.TableWordsDecode
  decide

/-! ### The frame -/

/-- Settles O20: `Encode` is a frame of the bits it reads. -/
theorem encodeReadsOnlyTheLowBits : Obligations.EncodeReadsOnlyTheLowBits := by
  unfold Obligations.EncodeReadsOnlyTheLowBits
  intro w n v v' h
  rw [encodeFrame_eq_frameIntervals, encodeFrame_eq_frameIntervals, frameBits_congr h]

/-- Settles O21: the idle is the last event of `Encode`, and the pulse sequence drops it. -/
theorem encodeIsTheFrameOfItsBits : Obligations.EncodeIsTheFrameOfItsBits := by
  unfold Obligations.EncodeIsTheFrameOfItsBits
  intro w n v
  refine ⟨encodeFrame_eq_frameIntervals n v, ?_, frameBits_length n v, fun k hk => frameBits_getElem? v hk⟩
  rw [pulseSeq_encodeFrame, encodeFrame_dropLast_eq_frameIntervals, frameIntervals]

/-- Settles O22: the frame of any bits is an `Encode` without its last event, whose fields are known. -/
theorem frameLayoutOnTheMedium : Obligations.FrameLayoutOnTheMedium := by
  unfold Obligations.FrameLayoutOnTheMedium
  intro bits
  obtain ⟨n, v, rfl⟩ := exists_eq_frameBits bits
  have hfield : ∀ {j : Nat} {e : Option (Kind × Duration)}, j < 2 * n + 3 → (encodeFrame n v)[j]? = e →
      (frameIntervals (frameBits n v))[j]? = e := fun hj he => (frameIntervals_getElem? n v hj).trans he
  rw [frameBits_length]
  refine ⟨frameIntervals_length n v, fun j hj => ?_, hfield (by omega) (encodeFrame_zero n v),
    hfield (by omega) (encodeFrame_one n v), fun k hk => ⟨hfield (by omega) (encodeFrame_bitMark n v hk), ?_⟩,
    hfield (by omega) (encodeFrame_term n v)⟩
  · exact (congrArg (Option.map Prod.fst) (hfield hj rfl)).trans (encodeFrame_kind n v (by omega))
  · rw [frameBits_getD v hk, ← spaceOf_eq]
    exact hfield (by omega) (encodeFrame_bitSpace n v hk)

/-! ### The value -/

/-- Settles O38: the classifications are the bits of the accepted value, and they are all of its bits. -/
theorem valueHoldsTheFirstBitOnTop : Obligations.ValueHoldsTheFirstBitOnTop := by
  unfold Obligations.ValueHoldsTheFirstBitOnTop
  intro mt raw n v t h
  refine ⟨fun k hk => classify_of_decodeFrame_accepted h hk, fun v' hv' => eq_of_getLsbD_from_top fun k hk => ?_⟩
  exact Option.some.inj ((hv' k hk).symm.trans (classify_of_decodeFrame_accepted h hk))

/-! ### The payload -/

/-- Settles O59: the value is the top 32 bits of the payload's number, which are its first four bytes. -/
theorem payloadDecodesToItsFirstFourBytes : Obligations.PayloadDecodesToItsFirstFourBytes := by
  unfold Obligations.PayloadDecodesToItsFirstFourBytes
  intro mt p g hr hs
  refine ⟨_, decodeFrame_capture p.frame g hr hs (by decide), ?_⟩
  rw [p.frame_top]
  exact extractLsb'_of_append_bytes p.b0 p.b1 p.b2 p.b3

/-- Settles O58: the fields of a byte are its quotients and remainders, and `packByte6` is their sum. -/
theorem payloadFieldsSitWhereTheLayoutPutsThem : Obligations.PayloadFieldsSitWhereTheLayoutPutsThem := by
  unfold Obligations.PayloadFieldsSitWhereTheLayoutPutsThem
  refine ⟨fun p => ⟨p.celsius_eq, p.fanSpeed_toNat, p.mode_toNat, p.power_toNat⟩,
    fun p fan mode power h => ?_⟩
  have hsum := packByte6_toNat fan mode power
  have hfan := fan.isLt
  have hmode := mode.isLt
  have hpower := power.isLt
  refine ⟨BitVec.eq_of_toNat_eq ?_, BitVec.eq_of_toNat_eq ?_, BitVec.eq_of_toNat_eq ?_⟩
  · rw [p.fanSpeed_toNat, h]; omega
  · rw [p.mode_toNat, h]; omega
  · rw [p.power_toNat, h]; omega

end Sys2Proof.Proofs
end

section
/-! What a command or a micro-operation of ENC answers, and what driving the rest of a frame leaves (`40_encoder.md` R91 to
R99). -/

namespace Sys2Proof.Machine

/-! ### Starting a frame -/

theorem startSend_of_legal {n : Nat} {v : Value} {s : State} (h1 : 1 ≤ n) (h32 : n ≤ 32) :
    startSend n v s = .next (latchSend n v s) :=
  if_pos (nbitsLegal_iff.mpr ⟨h1, h32⟩)

theorem startSend_of_not_legal {n : Nat} {v : Value} {s : State} (h : n = 0 ∨ 32 < n) :
    startSend n v s = .refused .nbitsOutOfRange :=
  if_neg (by rw [nbitsLegal_iff]; omega)

theorem execSend_of_busy {n : Nat} {v : Value} {s : State} (h : s.ePhase ≠ .idle) :
    execSend n v s = .refused .encBusy :=
  if_pos (eBusy_iff.mpr h)

theorem execSend_eq_startSend {n : Nat} {v : Value} {s : State} (h : s.ePhase = .idle) :
    execSend n v s = startSend n v s :=
  if_neg (by simp [h])

/-- No command reaches a busy ENC: a `SEND` is refused, and a `DECODE` is DEC's (R100, R156). -/
theorem exec_decodeCmd_ePhase {w : CmdWord} {s t : State} (he : s.ePhase ≠ .idle)
    (h : exec (decodeCmd w) s = .next t) : t.ePhase = s.ePhase := by
  cases hop : cmdOp w with
  | true =>
    rw [decodeCmd_of_op hop] at h
    exact absurd (execSend_cases h).1 he
  | false =>
    rw [decodeCmd_of_not_op hop] at h
    rw [(execDecode_cases h).2, startDecode_ePhase]

/-! ### The space of a bit -/

theorem execEBspace_of_zero {s : State} (h0 : s.eIdx = 0) :
    execEBspace s = .next { drive .space (spaceOf (s.eValue.getLsbD s.eIdx)) s with ePhase := .term } := by
  rw [execEBspace, bitOperand_of_lt (by omega), withOperand_ok, if_pos h0]

theorem execEBspace_of_ne_zero {s : State} (h32 : s.eIdx < 32) (h0 : s.eIdx ≠ 0) :
    execEBspace s =
      .next { drive .space (spaceOf (s.eValue.getLsbD s.eIdx)) s with eIdx := s.eIdx - 1, ePhase := .bmark } := by
  rw [execEBspace, bitOperand_of_lt h32, withOperand_ok, if_neg h0]

/-! ### Coming to rest -/

theorem encOp_of_off {p : EPhase} {i : Instr} (hp : p = .off) (h : encOp p = some i) : i = .eOff := by
  subst hp; cases h; rfl

/-- Of ENC's micro-operations only `E.OFF` leaves it idle (R97). -/
theorem encOp_rests_iff {i : Instr} {s t : State} (hop : encOp s.ePhase = some i) (h : exec i s = .next t) :
    t.ePhase = .idle ↔ s.ePhase = .off := by
  cases hp : s.ePhase with
  | idle => exact absurd hp (encOp_busy hop)
  | bspace =>
    rw [hp] at hop; cases hop
    obtain ⟨-, ⟨-, rfl⟩ | ⟨-, rfl⟩⟩ := execEBspace_cases h
    · simp
    · simp
  | hmark | hspace | bmark | term | off => rw [hp] at hop; cases hop; cases h; simp

/-- The step that brings a busy ENC to rest is its `E.OFF` (R97): no command and no step of DEC does. -/
theorem step_rests_enc {s t : State} (he : s.ePhase ≠ .idle) (h : step s = .next t) (ht : t.ePhase = .idle) :
    s.ePhase = .off ∧ t = { drive .space 0 (advance s) with ePhase := .idle } := by
  obtain ⟨w, ws, -, h⟩ | ⟨i, -, hop, h⟩ | ⟨i, -, hop, h⟩ | ⟨-, hidle, -⟩ := step_cases h
  · exact absurd ((exec_decodeCmd_ePhase (s := advance s) he h).symm.trans ht) he
  · have hoff := (encOp_rests_iff (s := advance s) hop h).mp ht
    obtain rfl := encOp_of_off hoff hop
    cases h
    exact ⟨hoff, rfl⟩
  · obtain ⟨⟨hp, -⟩, -⟩ := exec_dec_frame (decOp_agent hop) h
    exact absurd (hp.symm.trans ht) he
  · exact absurd hidle he

theorem encodeFrame_suffix_concat {w n : Nat} {v : BitVec w} {l : List (Kind × Duration)}
    (h : (encodeFrame n v).take (3 + 2 * n) <:+ l) : encodeFrame n v <:+ l ++ [(.space, 0)] := by
  have hs := take_succ_suffix_concat (encodeFrame_off n v) h
  rwa [List.take_of_length_le (by rw [encodeFrame_length]; omega)] at hs

/-! ### The rest of a frame -/

/-- The state once ENC has driven what is left of its frame, with the scheduling fields its steps left (R99, R178). -/
def frameSent (turn : Agent) (tick : Nat) (s : State) : State :=
  { s with
    tx := s.tx ++ (encodeFrame s.eNbits s.eValue).drop (eventsDone s)
    carrier := false
    ePhase := .idle
    eIdx := 0
    turn := turn
    tick := tick }

/-- An index that fits its phase is inside the value (R12, R13). -/
theorem IndexFits.eIdx_lt {s : State} (hf : IndexFits s) (he : s.ePhase ≠ .idle) : s.eIdx < 32 := by
  obtain ⟨hn, hx⟩ := hf.1 he
  have := nbitsLegal_iff.mp hn
  omega

theorem eventsDone_lt (s : State) : eventsDone s < 2 * s.eNbits + 4 := by
  cases hp : s.ePhase with
  | idle | hmark | hspace | bmark | bspace | term | off => simp only [eventsDone, hp]; omega

theorem eventsDone_of_off {s : State} (hp : s.ePhase = .off) : eventsDone s = 3 + 2 * s.eNbits := by
  rw [eventsDone, hp]

/-- Driving the next event of the frame leaves the same frame to send in the end. -/
theorem frameSent_drive {s : State} {k : Kind} {d : Duration} {p : EPhase} {j : Nat} {a : Agent} {c : Nat}
    (hev : (encodeFrame s.eNbits s.eValue)[eventsDone s]? = some (k, d)) (hc : s.cmd = [])
    (hdone : eventsDone { drive k d (advance s) with ePhase := p, eIdx := j } = eventsDone s + 1) :
    frameSent a c { drive k d (advance s) with ePhase := p, eIdx := j } = frameSent a c s := by
  have hdrop : (encodeFrame s.eNbits s.eValue).drop (eventsDone s) =
      (k, d) :: (encodeFrame s.eNbits s.eValue).drop (eventsDone s + 1) := by
    rw [List.drop_eq_getElem?_toList_append, hev]; rfl
  simp only [frameSent, hdone, hdrop]
  simp [drive, advance, hc]

/-- A busy ENC beside an idle DEC steps by its own micro-operation, which drives the next event of the frame. -/
theorem step_enc {s : State} (hf : IndexFits s) (hc : s.cmd = []) (hd : s.dPhase = .idle) (he : s.ePhase ≠ .idle) :
    ∃ k d p j, (encodeFrame s.eNbits s.eValue)[eventsDone s]? = some (k, d) ∧
      step s = .next { drive k d (advance s) with ePhase := p, eIdx := j } ∧
      IndexFits { drive k d (advance s) with ePhase := p, eIdx := j } ∧
      (p ≠ .idle → eventsDone { drive k d (advance s) with ePhase := p, eIdx := j } = eventsDone s + 1) := by
  obtain ⟨i, hop⟩ := encOp_isSome he
  have hstep : step s = exec i (advance s) := step_of_fetch ((fetch_enc hc he (.inl hd)).trans hop)
  obtain ⟨t, ht⟩ := encOp_answers (s := advance s) (hf.eIdx_lt he) hop
  obtain ⟨k, d, p, j, hev, rfl, -, hf', hdone⟩ := encOp_drives_next_event (s := advance s) hf hop ht
  exact ⟨k, d, p, j, hev, hstep.trans ht, hf', hdone⟩

/-- The step of the last phase drives the idle event, all that is left of the frame. -/
theorem frameSent_of_off {s : State} (hf : IndexFits s) (hc : s.cmd = []) (hp : s.ePhase = .off) :
    ({ drive .space 0 (advance s) with ePhase := .idle } : State) =
      frameSent (Config.nextAgent s.tick) (s.tick + 1) s := by
  have hidx : s.eIdx = 0 := hf.2.2 (.inr hp)
  have hdrop : (encodeFrame s.eNbits s.eValue).drop (eventsDone s) = [(.space, 0)] := by
    rw [eventsDone_of_off hp, List.drop_eq_getElem?_toList_append, encodeFrame_off,
      List.drop_of_length_le (by rw [encodeFrame_length]; omega)]
    rfl
  simp [frameSent, hdrop, hidx, hc, drive, advance, carrierAfter]

/-- A busy ENC beside an idle DEC takes one step for each event left of its frame, and rests with the frame sent (R98, R99). -/
theorem runSteps_enc {s : State} {m : Nat} (hf : IndexFits s) (hc : s.cmd = []) (hd : s.dPhase = .idle)
    (he : s.ePhase ≠ .idle) (hm : eventsDone s + m = 2 * s.eNbits + 4) :
    ∃ turn tick, runSteps m s = .next (frameSent turn tick s) := by
  induction m generalizing s with
  | zero => have := eventsDone_lt s; omega
  | succ m ih =>
    obtain ⟨k, d, p, j, hev, hstep, hf', hdone⟩ := step_enc hf hc hd he
    rw [runSteps_succ hstep]
    by_cases hp : p = .idle
    · obtain ⟨hoff, ht⟩ := step_rests_enc he hstep hp
      have hm0 : m = 0 := by have := eventsDone_of_off hoff; omega
      subst hm0
      rw [ht, frameSent_of_off hf hc hoff]
      exact ⟨_, _, rfl⟩
    · obtain ⟨a, c, hrun⟩ := ih hf' (by simp [hc]) hd hp (by rw [hdone hp]; simp; omega)
      exact ⟨a, c, hrun.trans (congrArg _ (frameSent_drive hev hc (hdone hp)))⟩

end Sys2Proof.Machine
end

section
/-! The sizes of a frame: its marks and spaces, and the time it takes on the medium (`40_encoder.md` R102,
`70_reset_and_hazards.md` R184). -/

namespace Sys2Proof.Machine

/-- The intervals of a frame: the header, a pair for each bit, and the terminator (R64). -/
theorem frameIntervals_eq (bits : List Bool) :
    frameIntervals bits =
      [(.mark, 4400), (.space, 4400)] ++ bits.flatMap (fun b => [(.mark, 550), (.space, spaceOf b)]) ++ [(.mark, 550)] := by
  simp [frameIntervals, frameSymbols, Symbol.intervals, List.flatMap_map]

theorem frameIntervals_marks (bits : List Bool) :
    ((frameIntervals bits).filter (fun e => e.1 = Kind.mark)).length = bits.length + 2 := by
  simp [frameIntervals_eq, List.filter_flatMap, List.length_flatMap]

theorem frameIntervals_spaces (bits : List Bool) :
    ((frameIntervals bits).filter (fun e => e.1 = Kind.space)).length = bits.length + 1 := by
  simp [frameIntervals_eq, List.filter_flatMap, List.length_flatMap]

theorem mediumTime_append (t u : List (Kind × Duration)) : mediumTime (t ++ u) = mediumTime t + mediumTime u := by
  simp [mediumTime]

/-- A bit takes 1100 time-units, and a 1 takes 1050 more (R62). -/
theorem mediumTime_bits (bits : List Bool) :
    mediumTime (bits.flatMap fun b => [(.mark, 550), (.space, spaceOf b)]) = 1100 * bits.length + 1050 * bits.count true := by
  induction bits with
  | nil => rfl
  | cons b bits ih =>
    rw [List.flatMap_cons, mediumTime_append, ih]
    cases b with
    | true => simp [spaceOf_eq, mediumTime]; omega
    | false => simp [spaceOf_eq, mediumTime]; omega

theorem mediumTime_frameIntervals (bits : List Bool) :
    mediumTime (frameIntervals bits) = 9350 + 1100 * bits.length + 1050 * bits.count true := by
  rw [frameIntervals_eq, mediumTime_append, mediumTime_append, mediumTime_bits]
  simp [mediumTime]
  omega

end Sys2Proof.Machine
end

section
/-! The statements of the family of `40_encoder.md`, settled. -/

namespace Sys2Proof.Proofs

open Sys2Proof.Machine Sys2Proof.Claims

/-! ### A whole frame -/

/-- Settles O19: the `SEND` latches its operands, and ENC then takes a step for each of the `2n + 4` events of the frame. -/
theorem sendRunsToItsFrame : Obligations.SendRunsToItsFrame := by
  unfold Obligations.SendRunsToItsFrame
  intro s n v he hd h1 h32 hc
  have hstep : step s = exec (.send n v) (stepped s) := by
    rw [step_of_cmd hc, decodeCmd_sendWord v (by omega)]; rfl
  have hexec : exec (.send n v) (stepped s) = .next (latchSend n v (stepped s)) := execSend_of_idle he h1 h32
  have hf : IndexFits (latchSend n v (stepped s)) := by simp [IndexFits, h1, h32]; omega
  obtain ⟨a, c, hrun⟩ := runSteps_enc (m := 2 * n + 4) hf (by simp [stepped, hc]) hd (by simp) (by simp [eventsDone])
  refine ⟨_, _, hstep, hexec, hrun, ?_⟩
  simp [frameSent, latchSend, stepped, eventsDone, hc, he]

/-- Settles O48: only `E.OFF` brings a busy ENC to rest, and the invariant has all but its event in `TX` by then. -/
theorem encoderRestsWithItsFrame : Obligations.EncoderRestsWithItsFrame := by
  unfold Obligations.EncoderRestsWithItsFrame
  intro s t hi he h ht
  obtain ⟨hoff, rfl⟩ := step_rests_enc he h ht
  obtain ⟨-, -, hsent⟩ := encInv_iff.mp hi.1
  rw [eventsDone_of_off hoff] at hsent
  exact ⟨encodeFrame_suffix_concat hsent, rfl, rfl, rfl⟩

/-- Settles O23: the sizes of the frame of the value's bits, and the idle event, which takes no time. -/
theorem frameSizes : Obligations.FrameSizes := by
  unfold Obligations.FrameSizes
  intro w n v g
  rw [encodeFrame_dropLast_eq_frameIntervals, frameIntervals_marks, frameIntervals_spaces, frameBits_length]
  refine ⟨encodeFrame_length n v, pulseSeq_encodeFrame_length n v, rfl, rfl, ?_, capture_length n v g, ?_⟩
  · rw [encodeFrame_eq_frameIntervals, mediumTime_append, mediumTime_frameIntervals, frameBits_length]
    rfl
  · rw [capture_length, apparentCount, Config.hw_overhead]
    omega

/-! ### Starting a frame -/

/-- Settles O12: legal operands are latched, and an idle ENC takes the `SEND`. -/
theorem startLatchesTheOperands : Obligations.StartLatchesTheOperands := by
  unfold Obligations.StartLatchesTheOperands
  intro s n v h1 h32
  exact ⟨startSend_of_legal h1 h32, fun he => execSend_of_idle he h1 h32⟩

/-- Settles O13: a busy ENC is looked for first, and then the range of the count. -/
theorem sendOutsideItsPreconditionIsRefused : Obligations.SendOutsideItsPreconditionIsRefused := by
  unfold Obligations.SendOutsideItsPreconditionIsRefused
  intro s n v
  refine ⟨execSend_of_busy, fun he hn => ?_, fun he ⟨h1, h32⟩ => ⟨_, execSend_of_idle he h1 h32⟩⟩
  exact (execSend_eq_startSend he).trans (startSend_of_not_legal hn)

/-! ### The micro-operations -/

/-- Settles O14: each is one `drive` of a mark and the next phase. -/
theorem markMicroOperationsDriveTheirMark : Obligations.MarkMicroOperationsDriveTheirMark := by
  unfold Obligations.MarkMicroOperationsDriveTheirMark
  intro s
  exact ⟨rfl, rfl, rfl⟩

/-- Settles O15: one `drive` of a space and the next phase. -/
theorem eHspaceDrivesTheHeaderSpace : Obligations.EHspaceDrivesTheHeaderSpace := by
  unfold Obligations.EHspaceDrivesTheHeaderSpace
  exact ⟨decode_encPhase (p := .hspace).mpr rfl, rfl, fun s => rfl⟩

/-- Settles O16: one `drive` of the space of duration 0 and the idle phase. -/
theorem eOffDrivesTheIdle : Obligations.EOffDrivesTheIdle := by
  unfold Obligations.EOffDrivesTheIdle
  exact ⟨decode_encPhase (p := .off).mpr rfl, rfl, fun s => rfl⟩

/-- Settles O17: the two cases of the index, and the invariant's bound on it. -/
theorem bspaceMapsTheSelectedBit : Obligations.BspaceMapsTheSelectedBit := by
  unfold Obligations.BspaceMapsTheSelectedBit
  refine ⟨decode_encPhase (p := .bspace).mpr rfl, rfl, fun s => ⟨fun h32 => ⟨execEBspace_of_zero, execEBspace_of_ne_zero h32⟩,
    fun hi hp => ?_⟩⟩
  obtain ⟨⟨hbusy, -⟩, -, -⟩ := encInv_iff.mp hi.1
  obtain ⟨hlegal, hidx⟩ := hbusy (by simp [hp])
  exact ⟨hidx, (nbitsLegal_iff.mp hlegal).2⟩

end Sys2Proof.Proofs
end

section
/-! What each operation of DEC answers, what `Decode` rejects and which indices it reads, and the number the accumulator holds
(`41_decoder.md` R111 to R123). -/

namespace Sys2Proof.Machine

/-! ### A command or a micro-operation of DEC -/

theorem execDecode_of_busy {s : State} (h : s.dPhase ≠ .idle) : execDecode s = .refused .decBusy :=
  if_pos (dBusy_iff.mpr h)

theorem execDHmark_of_short {s : State} (h : s.raw.length < 3) : execDHmark s = .next (reject .headerMismatch s) :=
  if_pos h

theorem execDLen_of_supported {s : State} (h3 : 3 ≤ s.raw.length) (hn : apparentCount s.raw.length ∈ [56, 72, 80]) :
    execDLen s = .next { s with dNbits := apparentCount s.raw.length, dPhase := .hspace } :=
  (if_neg (Nat.not_lt.mpr h3)).trans (if_pos hn)

theorem execDLen_of_unsupported {s : State} (h3 : 3 ≤ s.raw.length) (hn : apparentCount s.raw.length ∉ [56, 72, 80]) :
    execDLen s = .next (reject .unsupportedLength { s with dNbits := apparentCount s.raw.length }) :=
  (if_neg (Nat.not_lt.mpr h3)).trans (if_neg hn)

section
variable {s : State} {d : Duration} (h : s.raw[s.dOffset]? = some d)
include h

theorem execDBspace_of_classify {b : Bool} (hb : classify s.matchDur d = some b) :
    execDBspace s = .next (acceptBit b s) := by
  rw [execDBspace_of_some h, hb]

theorem execDBspace_of_classify_none (hn : classify s.matchDur d = none) :
    execDBspace s = .next (reject .bitMismatch s) := by
  rw [execDBspace_of_some h, hn]

end

theorem acceptBit_of_last {b : Bool} {s : State} (h : s.dI + 1 = 32) :
    acceptBit b s = accept { advanceCursor s with dData := shiftIn s.dData b, dI := s.dI + 1 } :=
  if_pos h

theorem acceptBit_of_not_last {b : Bool} {s : State} (h : s.dI + 1 ≠ 32) :
    acceptBit b s = { advanceCursor s with dData := shiftIn s.dData b, dI := s.dI + 1, dPhase := .bmark } :=
  if_neg h

/-! ### The length -/

theorem apparentCount_eq (l : Nat) : apparentCount l = (l - 3) / 2 := rfl

/-- A length with a supported count is one of six, two for each count (R71, R120). -/
theorem length_count_of_supported {l : Nat} (h : apparentCount l ∈ [56, 72, 80]) :
    (l, apparentCount l) ∈ [(115, 56), (116, 56), (147, 72), (148, 72), (163, 80), (164, 80)] := by
  simp only [apparentCount_eq, List.mem_cons, List.not_mem_nil, or_false, Prod.mk.injEq] at h ⊢
  omega

theorem apparentCount_capture {w : Nat} (n : Nat) (v : BitVec w) (g : Duration) :
    apparentCount (capture g (encodeFrame n v)).length = n := by
  rw [capture_length, apparentCount_eq]; omega

/-! ### What `Decode` rejects before the bits, in the order of the steps -/

section
variable {mt : Duration → Duration → Bool} {raw : List Duration}

theorem decodeFrame_of_short (h : raw.length < 3) : decodeFrame mt raw = .rejected .headerMismatch :=
  if_pos h

theorem decodeFrame_headerMark (h3 : 3 ≤ raw.length) (h1 : mt (raw.getD 1 0) 4400 = false) :
    decodeFrame mt raw = .rejected .headerMismatch := by
  rw [decodeFrame, Config.hw_overhead, if_neg (Nat.not_lt.mpr h3), Config.hw_hMark, h1]
  rfl

theorem decodeFrame_unsupportedLength (h3 : 3 ≤ raw.length) (h1 : mt (raw.getD 1 0) 4400 = true)
    (hn : apparentCount raw.length ∉ [56, 72, 80]) : decodeFrame mt raw = .rejected .unsupportedLength := by
  rw [decodeFrame, Config.hw_overhead, if_neg (Nat.not_lt.mpr h3), Config.hw_hMark, h1, Config.hw_lengths, if_pos hn]
  rfl

theorem decodeFrame_headerSpace (h3 : 3 ≤ raw.length) (h1 : mt (raw.getD 1 0) 4400 = true)
    (hn : apparentCount raw.length ∈ [56, 72, 80]) (h2 : mt (raw.getD 2 0) 4400 = false) :
    decodeFrame mt raw = .rejected .headerMismatch := by
  rw [decodeFrame, Config.hw_overhead, if_neg (Nat.not_lt.mpr h3), Config.hw_hMark, h1, Config.hw_lengths,
    if_neg (not_not.mpr hn), Config.hw_hSpace, h2]
  rfl

/-- `Decode` reads the buffer at indices 1 to 66 only (R123). -/
theorem decodeFrame_congr {raw' : List Duration} (hl : raw.length = raw'.length)
    (h : ∀ i, 1 ≤ i → i ≤ 66 → raw.getD i 0 = raw'.getD i 0) : decodeFrame mt raw = decodeFrame mt raw' := by
  have hpos : ∀ k, k < 32 → classifyPos mt raw k = classifyPos mt raw' k := fun k hk => by
    rw [classifyPos, classifyPos, h (3 + 2 * k) (by omega) (by omega), h (4 + 2 * k) (by omega) (by omega)]
  rw [decodeFrame, decodeFrame, Config.hw_decBits, classifyAll_congr hpos, hl, h 1 (by decide) (by decide),
    h 2 (by decide) (by decide)]

end

/-! ### The accumulator -/

theorem shiftIn_toNat (d : Value) (b : Bool) : (shiftIn d b).toNat = (2 * d.toNat + b.toNat) % 2 ^ 32 := by
  rw [shiftIn_eq_shiftConcat, BitVec.toNat_shiftConcat, Nat.shiftLeft_eq, Nat.pow_one, Nat.mul_comm]

theorem foldl_shiftIn (bits : List Bool) : bits.foldl shiftIn 0#32 = BitVec.ofNat 32 (bitsToNat bits) := by
  induction bits using List.reverseRecOn with
  | nil => rfl
  | append_singleton bits b ih =>
    rw [List.foldl_concat, ih, shiftIn_ofNat, bitsToNat_append]

/-- The bit at place `k` from the top weighs `2 ^ (length - 1 - k)` (R68, R121). -/
theorem bitsToNat_eq_sum (bits : List Bool) :
    bitsToNat bits =
      ((List.range bits.length).map fun k => (bits.getD k false).toNat * 2 ^ (bits.length - 1 - k)).sum := by
  induction bits using List.reverseRecOn with
  | nil => rfl
  | append_singleton bits b ih =>
    have hshift : ∀ k ∈ List.range bits.length, 2 * ((bits.getD k false).toNat * 2 ^ (bits.length - 1 - k)) =
        ((bits ++ [b]).getD k false).toNat * 2 ^ (bits.length - k) := fun k hk => by
      have hlt := List.mem_range.mp hk
      rw [List.getD_append _ _ _ _ hlt, show bits.length - k = bits.length - 1 - k + 1 by omega]
      ring
    rw [bitsToNat_append, ih, List.length_append, List.length_singleton, Nat.add_sub_cancel, List.range_succ,
      List.map_append, List.sum_append, ← List.sum_map_mul_left, List.map_congr_left hshift]
    simp

end Sys2Proof.Machine
end

section
/-! A pass of DEC: each micro-operation ends it with `Decode(RAW)` or leaves it shorter (`41_decoder.md` R119, R125). -/

namespace Sys2Proof.Machine

open Sys2Proof.Claims

/-! ### What the host finds after a tail -/

theorem resultOf_accept (s : State) :
    resultOf (accept s) = some (.accepted s.dNbits s.dData Config.protoTag) := rfl

/-- The kind of a rejection is read back from its code (R144). -/
theorem resultOf_reject (kind : RejectKind) (s : State) : resultOf (reject kind s) = some (.rejected kind) := by
  cases kind <;> rfl

theorem rStatus_ne_none_of_resultOf {s : State} {r : DecodeResult} (h : resultOf s = some r) : s.rStatus ≠ .none := by
  intro hn
  simp [resultOf, hn] at h

/-! ### One micro-operation -/

/-- How many micro-operations a pass takes at most from here (R125): the header, then two for each bit position left. -/
def decStepsLeft (s : State) : Nat :=
  match s.dPhase with
  | .idle => 0
  | .hmark => 67
  | .len => 66
  | .hspace => 65
  | .bmark => 64 - 2 * s.dI
  | .bspace => 63 - 2 * s.dI

/-- A busy DEC has a micro-operation left: below 32 bit positions are decoded (R20). -/
theorem decStepsLeft_pos {s : State} (hi : DecInv s) (hd : s.dPhase ≠ .idle) : 0 < decStepsLeft s := by
  cases hp : s.dPhase with
  | idle => exact absurd hp hd
  | hmark | len | hspace => simp [decStepsLeft, hp]
  | bmark =>
    obtain ⟨-, -, -, hI, -⟩ := (decInv_iff_of_bmark hp).mp hi
    simp [decStepsLeft, hp]; omega
  | bspace =>
    obtain ⟨-, -, -, hI, -⟩ := (decInv_iff_of_bspace hp).mp hi
    simp [decStepsLeft, hp]; omega

/-- From `s` to `t` the pass over the buffer of `s` has ended with its result, or goes on with fewer micro-operations left. -/
def PassMoves (s t : State) : Prop :=
  (t.dPhase = .idle ∧ resultOf t = some (decodeFrame s.matchDur s.raw)) ∨
    (t.dPhase ≠ .idle ∧ decStepsLeft t < decStepsLeft s)

theorem PassMoves.reject {s u : State} {kind : RejectKind} (h : decodeFrame s.matchDur s.raw = .rejected kind) :
    PassMoves s (reject kind u) :=
  .inl ⟨rfl, by rw [resultOf_reject, h]⟩

/-- A check moves the pass on when its success leads to a shorter phase and `Decode` rejects alike on its failure. -/
theorem PassMoves.of_checkElement {s t : State} {e : Duration} {kind : RejectKind} {p : DPhase} (hp : p ≠ .idle)
    (hpass : decStepsLeft { advanceCursor s with dPhase := p } < decStepsLeft s)
    (hfail : s.matchDur (s.raw.getD s.dOffset 0) e = false → decodeFrame s.matchDur s.raw = .rejected kind)
    (h : checkElement e kind p s = .next t) : PassMoves s t := by
  obtain ⟨m, hm, ⟨-, rfl⟩ | ⟨hmatch, rfl⟩⟩ := checkElement_cases h
  · exact .inr ⟨hp, hpass⟩
  · exact .reject (hfail (by rwa [getD_of_getElem? hm]))

section
variable {s t : State}

theorem passMoves_execDHmark (hi : DecInv s) (hp : s.dPhase = .hmark) (h : execDHmark s = .next t) : PassMoves s t := by
  obtain ⟨ho, -, -⟩ := (decInv_iff_of_hmark hp).mp hi
  obtain ⟨hshort, rfl⟩ | ⟨h3, hc⟩ := execDHmark_cases h
  · exact .reject (decodeFrame_of_short hshort)
  · refine .of_checkElement (by simp) (by simp [decStepsLeft, hp]) (fun hm => ?_) hc
    rw [ho] at hm
    exact decodeFrame_headerMark h3 hm

theorem passMoves_execDLen (hi : DecInv s) (hp : s.dPhase = .len) (h : execDLen s = .next t) : PassMoves s t := by
  obtain ⟨-, h3, hmark⟩ := (decInv_iff_of_len hp).mp hi
  obtain ⟨-, ⟨-, rfl⟩ | ⟨hn, rfl⟩⟩ := execDLen_cases h
  · exact .inr ⟨by simp, by simp [decStepsLeft, hp]⟩
  · exact .reject (decodeFrame_unsupportedLength h3 hmark hn)

theorem passMoves_execDHspace (hi : DecInv s) (hp : s.dPhase = .hspace) (h : execDHspace s = .next t) :
    PassMoves s t := by
  obtain ⟨⟨ho, hI, -⟩, ⟨h3, hmark⟩, hn, hmem⟩ := (decInv_iff_of_hspace hp).mp hi
  refine .of_checkElement (by simp) (by simp [decStepsLeft, hp, hI]) (fun hm => ?_) h
  rw [ho] at hm
  exact decodeFrame_headerSpace h3 hmark (hn ▸ hmem) hm

/-- A bit position that does not classify ends `Decode` in `BitMismatch`, once the header has passed (R119). -/
theorem decodeFrame_of_unclassified (hmark : HeaderMarkPassed s) (hcount : CountPassed s) (hbits : BitsPassed s)
    (hpos : classifyPos s.matchDur s.raw s.dI = none) : decodeFrame s.matchDur s.raw = .rejected .bitMismatch := by
  obtain ⟨h3, hm⟩ := hmark
  obtain ⟨hn, hmem⟩ := hcount
  obtain ⟨hI, hspace, -⟩ := hbits
  exact decodeFrame_bitMismatch h3 hm (hn ▸ hmem) hspace (classifyAll_none hI hpos)

/-- The 32nd bit position completes the value `Decode` accepts (R116, R119). -/
theorem decodeFrame_of_lastBit {b : Bool} (hmark : HeaderMarkPassed s) (hcount : CountPassed s) (hbits : BitsPassed s)
    (hlast : s.dI + 1 = 32) (hpos : classifyPos s.matchDur s.raw s.dI = some b) :
    decodeFrame s.matchDur s.raw = .accepted s.dNbits (shiftIn s.dData b) Config.protoTag := by
  obtain ⟨h3, hm⟩ := hmark
  obtain ⟨hn, hmem⟩ := hcount
  obtain ⟨-, hspace, hdata⟩ := hbits
  have hall := classifyAll_succ_shiftIn hdata hpos
  rw [hlast] at hall
  obtain ⟨bits, hbits, hv⟩ := Option.map_eq_some_iff.mp hall
  rw [decodeFrame_of_bits h3 hm (hn ▸ hmem) hspace hbits, hv, hn]

theorem passMoves_execDBmark (hi : DecInv s) (hp : s.dPhase = .bmark) (h : execDBmark s = .next t) : PassMoves s t := by
  obtain ⟨ho, hmark, hcount, hbits⟩ := (decInv_iff_of_bmark hp).mp hi
  have hI := hbits.1
  refine .of_checkElement (by simp) (by simp [decStepsLeft, hp]; omega) (fun hm => ?_) h
  rw [ho] at hm
  refine decodeFrame_of_unclassified hmark hcount hbits ?_
  rw [classifyPos, hm]
  rfl

theorem passMoves_execDBspace (hi : DecInv s) (hp : s.dPhase = .bspace) (h : execDBspace s = .next t) :
    PassMoves s t := by
  obtain ⟨⟨ho, hm⟩, hmark, hcount, hbits⟩ := (decInv_iff_of_bspace hp).mp hi
  obtain ⟨d, hd, hclass⟩ := execDBspace_cases h
  rw [ho] at hd
  have hpos : classifyPos s.matchDur s.raw s.dI = classify s.matchDur d := by
    rw [classifyPos_of_mark hm, getD_of_getElem? hd]
  obtain ⟨b, hb, rfl⟩ | ⟨hnone, rfl⟩ := hclass
  · by_cases hlast : s.dI + 1 = 32
    · rw [acceptBit_of_last hlast]
      exact .inl ⟨rfl, by rw [decodeFrame_of_lastBit hmark hcount hbits hlast (hpos.trans hb)]; rfl⟩
    · have hI := hbits.1
      rw [acceptBit_of_not_last hlast]
      exact .inr ⟨by simp, by simp [decStepsLeft, hp]; omega⟩
  · exact .reject (decodeFrame_of_unclassified hmark hcount hbits (hpos.trans hnone))

/-- Each micro-operation of DEC ends the pass with `Decode(RAW)`, or goes on with fewer left (R119, R125). -/
theorem passMoves_exec_decOp {i : Instr} (hi : DecInv s) (hop : decOp s.dPhase = some i) (h : exec i s = .next t) :
    PassMoves s t := by
  cases hp : s.dPhase with
  | idle => rw [hp] at hop; cases hop
  | hmark => rw [hp] at hop; cases hop; exact passMoves_execDHmark hi hp h
  | len => rw [hp] at hop; cases hop; exact passMoves_execDLen hi hp h
  | hspace => rw [hp] at hop; cases hop; exact passMoves_execDHspace hi hp h
  | bmark => rw [hp] at hop; cases hop; exact passMoves_execDBmark hi hp h
  | bspace => rw [hp] at hop; cases hop; exact passMoves_execDBspace hi hp h

/-! ### The step of a busy DEC, and a whole pass -/

/-- No command reaches a busy DEC: a `SEND` is ENC's, and a `DECODE` is refused (R110, R156). -/
theorem exec_decodeCmd_dPhase {w : CmdWord} (hd : s.dPhase ≠ .idle) (h : exec (decodeCmd w) s = .next t) :
    t.dPhase = s.dPhase := by
  cases hop : cmdOp w with
  | true =>
    rw [decodeCmd_of_op hop] at h
    rw [(execSend_cases h).2.2, latchSend_dPhase]
  | false =>
    rw [decodeCmd_of_not_op hop] at h
    exact absurd (execDecode_cases h).1 hd

/-- The step that brings a busy DEC to rest is its own micro-operation: no command and no step of ENC does (R156). -/
theorem step_rests_dec (hd : s.dPhase ≠ .idle) (h : step s = .next t) (ht : t.dPhase = .idle) :
    ∃ i, decOp s.dPhase = some i ∧ exec i (advance s) = .next t := by
  obtain ⟨w, ws, -, h⟩ | ⟨i, -, hop, h⟩ | ⟨i, -, hop, h⟩ | ⟨-, -, hidle, -⟩ := step_cases h
  · exact absurd ((exec_decodeCmd_dPhase (s := advance s) hd h).symm.trans ht) hd
  · obtain ⟨⟨hp, -⟩, -⟩ := exec_enc_frame (encOp_agent hop) h
    exact absurd (hp.symm.trans ht) hd
  · exact ⟨i, hop, h⟩
  · exact absurd hidle hd

/-- A busy DEC beside an idle ENC steps by its own micro-operation, which moves its pass and leaves ENC and the boundary. -/
theorem step_dec (hi : DecoderInv s) (hc : s.cmd = []) (he : s.ePhase = .idle) (hd : s.dPhase ≠ .idle) :
    ∃ t, step s = .next t ∧ DecoderInv t ∧ PassMoves s t ∧ t.cmd = [] ∧ sameEncoder s t ∧ t.raw = s.raw ∧
      t.matcher = s.matcher := by
  obtain ⟨i, hop⟩ := decOp_isSome hd
  have hstep : step s = exec i (advance s) := step_of_fetch ((fetch_dec hc hd (.inl he)).trans hop)
  obtain ⟨t, ht⟩ := decOp_answers (s := advance s) hi.1 hop
  obtain ⟨henc, hraw, hcmd, hmt, -⟩ := exec_dec_frame (decOp_agent hop) ht
  exact ⟨t, hstep.trans ht, DecoderInv.exec_decOp (s := advance s) hi hop ht,
    passMoves_exec_decOp (s := advance s) hi.1 hop ht, by simp [hcmd, hc], henc, hraw, hmt⟩

theorem sameEncoder_trans {u : State} (hst : sameEncoder s t) (htu : sameEncoder t u) : sameEncoder s u := by
  obtain ⟨hp, hn, hv, hx, hc, htx⟩ := hst
  obtain ⟨hp', hn', hv', hx', hc', htx'⟩ := htu
  exact ⟨hp'.trans hp, hn'.trans hn, hv'.trans hv, hx'.trans hx, hc'.trans hc, htx'.trans htx⟩

end

/-- A busy DEC beside an idle ENC rests within the micro-operations its pass has left, with `Decode(RAW)` in the result
registers and ENC, the buffer and the matcher as they were (R119, R125, R129). -/
theorem runSteps_dec {s : State} {m : Nat} (hi : DecoderInv s) (hc : s.cmd = []) (he : s.ePhase = .idle)
    (hd : s.dPhase ≠ .idle) (hm : decStepsLeft s ≤ m) :
    ∃ t, runSteps m s = .next t ∧ endOfRun t ∧ resultOf t = some (decodeFrame s.matchDur s.raw) ∧ sameEncoder s t ∧
      t.raw = s.raw ∧ t.matcher = s.matcher := by
  induction m generalizing s with
  | zero => exact absurd hm (Nat.not_le.mpr (decStepsLeft_pos hi.1 hd))
  | succ m ih =>
    obtain ⟨u, hstep, hu, hmoves, hcu, hsame, hraw, hmt⟩ := step_dec hi hc he hd
    have heu : u.ePhase = .idle := hsame.1.trans he
    rw [runSteps_succ hstep]
    obtain ⟨hrest, hres⟩ | ⟨hbusy, hlt⟩ := hmoves
    · exact ⟨u, runSteps_rest ⟨hcu, heu, hrest⟩ m, ⟨hcu, heu, hrest⟩, hres, hsame, hraw, hmt⟩
    · obtain ⟨t, hrun, hend, hres, hsame', hraw', hmt'⟩ := ih hu hcu heu hbusy (by omega)
      have hmd : u.matchDur = s.matchDur := congrArg matchWith hmt
      rw [hmd, hraw] at hres
      exact ⟨t, hrun, hend, hres, sameEncoder_trans hsame hsame', hraw'.trans hraw, hmt'.trans hmt⟩

end Sys2Proof.Machine
end

section
/-! The statements of the family of `41_decoder.md`, settled. -/

namespace Sys2Proof.Proofs

open Sys2Proof.Machine Sys2Proof.Claims

/-! ### A whole pass -/

/-- Settles O47: only DEC's own micro-operation brings a busy DEC to rest, and it ends the pass with `Decode(RAW)`. -/
theorem decoderRestsWithItsResult : Obligations.DecoderRestsWithItsResult := by
  unfold Obligations.DecoderRestsWithItsResult
  intro s t hi hd h ht
  obtain ⟨i, hop, hexec⟩ := step_rests_dec hd h ht
  obtain ⟨-, hdec, -⟩ := hi.advance
  obtain ⟨-, hres⟩ | ⟨hbusy, -⟩ := passMoves_exec_decOp (s := advance s) hdec hop hexec
  · exact ⟨hres, rStatus_ne_none_of_resultOf hres⟩
  · exact absurd ht hbusy

/-- Settles O33: the `DECODE` starts a pass, which has 67 micro-operations left. -/
theorem decodeRunsToItsResult : Obligations.DecodeRunsToItsResult := by
  unfold Obligations.DecodeRunsToItsResult
  intro s w he hd hc hw
  have hstep : step s = exec .decode (stepped s) := by
    rw [step_of_cmd hc, show decodeCmd w = .decode from Except.ok.inj hw]; rfl
  have hexec : exec .decode (stepped s) = .next (startDecode (stepped s)) := execDecode_of_idle hd
  obtain ⟨t, hrun, hend, hres, hsame, hraw, hmt⟩ := runSteps_dec (m := 67) (decoderInv_startDecode (stepped s))
    (by simp [stepped, hc]) he (by simp) le_rfl
  exact ⟨_, 67, t, hstep, hexec, le_rfl, hrun, hend, hres, hsame, hraw, hmt⟩

/-! ### `Decode` as a function -/

/-- Settles O35: an acceptance has a supported count, and each supported count has two lengths. -/
theorem acceptedLengthsAndCounts : Obligations.AcceptedLengthsAndCounts := by
  unfold Obligations.AcceptedLengthsAndCounts
  intro mt raw n v t h
  obtain ⟨-, -, rfl, hn, -, bits, -, -, ht⟩ := decodeFrame_accepted h
  exact ⟨length_count_of_supported hn, ht⟩

/-- Settles O36: `Decode` reads the length and the indices 1 to 66. -/
theorem unreadPositionsDoNotMatter : Obligations.UnreadPositionsDoNotMatter := by
  unfold Obligations.UnreadPositionsDoNotMatter
  intro mt raw raw' hl h
  refine decodeFrame_congr hl fun i h1 h66 => ?_
  rw [List.getD_eq_getElem?_getD, List.getD_eq_getElem?_getD, h i h1 h66]

/-- Settles O40: bits shifted into 0 are the number they spell, and 32 of them fit. -/
theorem shiftAccumulateLosesNoBit : Obligations.ShiftAccumulateLosesNoBit := by
  unfold Obligations.ShiftAccumulateLosesNoBit
  refine ⟨shiftIn_toNat, fun c hc => ?_⟩
  have hfits : bitsToNat c < 2 ^ 32 := (bitsToNat_lt c).trans_le (Nat.pow_le_pow_right (by decide) hc)
  rw [foldl_shiftIn, BitVec.toNat_ofNat, Nat.mod_eq_of_lt hfits, bitsToNat_eq_sum]

/-- Settles O41: the capture has the count `n`, which is none of the supported ones, and only the header mark is tested before
the count. -/
theorem ownFramesAreRejected : Obligations.OwnFramesAreRejected := by
  unfold Obligations.OwnFramesAreRejected
  intro mt n v g _ h32
  have h3 : 3 ≤ (capture g (encodeFrame n v)).length := by rw [capture_length]; omega
  have hmark : (capture g (encodeFrame n v)).getD 1 0 = 4400 := capture_getD v g (by omega) (encodeFrame_zero n v)
  have hcount : apparentCount (capture g (encodeFrame n v)).length ∉ [56, 72, 80] := by
    rw [apparentCount_capture]; simp; omega
  have hreject : mt 4400 4400 = true →
      decodeFrame mt (capture g (encodeFrame n v)) = .rejected .unsupportedLength := fun hm =>
    decodeFrame_unsupportedLength h3 (by rwa [hmark]) hcount
  refine ⟨?_, hreject⟩
  cases hm : mt 4400 4400 with
  | true => exact ⟨_, hreject hm⟩
  | false => exact ⟨_, decodeFrame_headerMark h3 (by rwa [hmark])⟩

/-- Settles O42: the capture of a widened frame passes every check, and its first 32 bits classify as they were sent. -/
theorem widenedRoundTripRecoversTheTopBits : Obligations.WidenedRoundTripRecoversTheTopBits := by
  unfold Obligations.WidenedRoundTripRecoversTheTopBits
  intro mt w n v g hr hs hn _
  exact decodeFrame_capture v g hr hs hn

/-- Settles O34: each supported count is the floor for two lengths. -/
theorem sixBufferLengthsAreSupported : Obligations.SixBufferLengthsAreSupported := by
  unfold Obligations.SixBufferLengthsAreSupported
  intro l _
  simp only [apparentCount_eq, List.mem_cons, List.not_mem_nil, or_false]
  omega

/-! ### The commands and the tails -/

/-- Settles O24: an idle DEC takes the `DECODE`, and `D.START` writes the start of a pass. -/
theorem decodeStartsItsPass : Obligations.DecodeStartsItsPass := by
  unfold Obligations.DecodeStartsItsPass
  exact fun s => ⟨rfl, execDecode_of_idle⟩

/-- Settles O25: the busy flag is looked at first. -/
theorem decodeToABusyDecoderIsRefused : Obligations.DecodeToABusyDecoderIsRefused := by
  unfold Obligations.DecodeToABusyDecoderIsRefused
  exact fun s => execDecode_of_busy

/-- Settles O31: with 31 bits decoded, the next one is the last, and `D.BSPACE` ends in the tail. -/
theorem acceptWritesTheResult : Obligations.AcceptWritesTheResult := by
  unfold Obligations.AcceptWritesTheResult
  refine fun s => ⟨rfl, fun d b hI hd hb => ?_⟩
  exact (execDBspace_of_classify hd hb).trans (congrArg _ (acceptBit_of_last (by rw [hI])))

/-- Settles O32: each kind has its code. -/
theorem rejectRecordsTheKind : Obligations.RejectRecordsTheKind := by
  unfold Obligations.RejectRecordsTheKind
  exact fun s => ⟨rfl, rfl, rfl⟩

/-! ### The micro-operations -/

/-- Settles O26: a short buffer is rejected unread, and a longer one has its element checked. -/
theorem hmarkChecksLengthThenHeaderMark : Obligations.HmarkChecksLengthThenHeaderMark := by
  unfold Obligations.HmarkChecksLengthThenHeaderMark
  refine fun s => ⟨execDHmark_of_short, fun m h3 hm => ⟨fun hp => ?_, fun hf => ?_⟩⟩
  · exact (execDHmark_of_long h3).trans (checkElement_pass hm hp)
  · exact (execDHmark_of_long h3).trans (checkElement_fail hm hf)

/-- Settles O27: the count is a supported one or is rejected, and is written either way. -/
theorem lenAcceptsOnlyTheThreeLengths : Obligations.LenAcceptsOnlyTheThreeLengths := by
  unfold Obligations.LenAcceptsOnlyTheThreeLengths
  refine fun s h3 => ⟨fun hn => ?_, fun hn => ?_⟩
  · exact execDLen_of_supported h3 (by simpa [apparentCount_eq] using hn)
  · exact execDLen_of_unsupported h3 (by simpa [apparentCount_eq] using hn)

/-- Settles O28: it is the check of one element against the header space. -/
theorem hspaceChecksTheHeaderSpace : Obligations.HspaceChecksTheHeaderSpace := by
  unfold Obligations.HspaceChecksTheHeaderSpace
  exact fun s m hm => ⟨checkElement_pass hm, checkElement_fail hm⟩

/-- Settles O29: it is the check of one element against the bit mark. -/
theorem bmarkChecksTheBitMark : Obligations.BmarkChecksTheBitMark := by
  unfold Obligations.BmarkChecksTheBitMark
  exact fun s m hm => ⟨checkElement_pass hm, checkElement_fail hm⟩

/-- Settles O30: the two tests, in their order, are the classification of the space, and a classified bit is accumulated. -/
theorem bspaceClassifiesAndAccumulates : Obligations.BspaceClassifiesAndAccumulates := by
  unfold Obligations.BspaceClassifiesAndAccumulates
  refine fun s d b hd => ⟨fun hclass => ?_, fun h1 h0 => execDBspace_of_classify_none hd (classify_eq_none h1 h0)⟩
  have hb : classify s.matchDur d = some b := by
    obtain ⟨h1, rfl⟩ | ⟨h1, h0, rfl⟩ := hclass
    · exact classify_eq_one h1
    · exact classify_eq_zero h1 h0
  rw [← shiftIn_eq]
  refine ⟨fun hI => ?_, fun hI => ?_⟩
  · exact (execDBspace_of_classify hd hb).trans (congrArg _ (acceptBit_of_not_last hI))
  · exact (execDBspace_of_classify hd hb).trans (congrArg _ (acceptBit_of_last hI))

end Sys2Proof.Proofs
end

section
/-! The micro-operation of DEC whose check fails, and a bit position that does not classify (`60_exceptions.md` R141 to R147). -/

namespace Sys2Proof.Machine

/-! ### The failing micro-operation -/

/-- No rejection has the code of "no error" (R26, R144). -/
theorem errCode_ne_zero (kind : RejectKind) : errCode kind ≠ 0#2 := by
  cases kind <;> decide

/-- What a rejection by `i` leaves: the rejection of `s`, with the new count in `D.LEN` and the old one in every other
micro-operation (R146, R113; log 14). -/
def RejectedBy (i : Instr) (s t : State) : Prop :=
  ∃ kind, t = reject kind { s with dNbits := if i = .dLen then apparentCount s.raw.length else s.dNbits }

section
variable {i : Instr} {s t : State}

theorem RejectedBy.of_ne_dLen {kind : RejectKind} (hi : i ≠ .dLen) (h : t = reject kind s) : RejectedBy i s t :=
  ⟨kind, by rw [h, if_neg hi]⟩

/-- A check whose success goes on to a busy phase comes to rest only by failing (R112, R114, R115). -/
theorem checkElement_rests {e : Duration} {kind : RejectKind} {p : DPhase} (hp : p ≠ .idle)
    (h : checkElement e kind p s = .next t) (hd : t.dPhase = .idle) : t = reject kind s := by
  obtain ⟨-, -, ⟨-, rfl⟩ | ⟨-, rfl⟩⟩ := checkElement_cases h
  · exact absurd hd hp
  · rfl

/-- A classified bit leads to the next mark or to an acceptance, never to a rejection (R116). -/
theorem acceptBit_not_rejected (b : Bool) (s : State) :
    ¬((acceptBit b s).dPhase = .idle ∧ (acceptBit b s).rStatus = .rejected) := by
  by_cases hI : s.dI + 1 = 32
  · simp [acceptBit_of_last hI]
  · simp [acceptBit_of_not_last hI]

/-- A micro-operation of DEC that comes to rest with `REJECTED` has failed its check (R118, R146). -/
theorem rejectedBy_of_rests (hi : i ∈ [Instr.dHmark, .dLen, .dHspace, .dBmark, .dBspace]) (h : exec i s = .next t)
    (hd : t.dPhase = .idle) (hr : t.rStatus = .rejected) : RejectedBy i s t := by
  cases i with
  | dHmark =>
    obtain ⟨-, rfl⟩ | ⟨-, hc⟩ := execDHmark_cases h
    · exact .of_ne_dLen (by simp) rfl
    · exact .of_ne_dLen (by simp) (checkElement_rests (by simp) hc hd)
  | dLen =>
    obtain ⟨-, ⟨-, rfl⟩ | ⟨-, rfl⟩⟩ := execDLen_cases h
    · cases hd
    · exact ⟨_, rfl⟩
  | dHspace | dBmark => exact .of_ne_dLen (by simp) (checkElement_rests (by simp) h hd)
  | dBspace =>
    obtain ⟨-, -, ⟨b, -, rfl⟩ | ⟨-, rfl⟩⟩ := execDBspace_cases h
    · exact absurd ⟨hd, hr⟩ (acceptBit_not_rejected b s)
    · exact .of_ne_dLen (by simp) rfl
  | _ => simp at hi

end

/-! ### The order of the checks -/

theorem three_le_of_supported {l : Nat} (h : apparentCount l ∈ [56, 72, 80]) : 3 ≤ l := by
  simp only [apparentCount_eq, List.mem_cons, List.not_mem_nil, or_false] at h
  omega

/-- A bit position whose mark fails, or whose space is neither of the two, does not classify (R119, R143). -/
theorem classifyPos_eq_none {mt : Duration → Duration → Bool} {raw : List Duration} {k : Nat}
    (h : mt (raw.getD (3 + 2 * k) 0) 550 = false ∨
      (mt (raw.getD (4 + 2 * k) 0) 1600 = false ∧ mt (raw.getD (4 + 2 * k) 0) 550 = false)) :
    classifyPos mt raw k = none := by
  rw [← Option.not_isSome_iff_eq_none, classifyPos_isSome_iff]
  rintro ⟨hmark, hspace⟩
  obtain h | ⟨h1, h0⟩ := h
  · rw [h] at hmark; cases hmark
  · rw [h1, h0] at hspace; simp at hspace

end Sys2Proof.Machine
end

section
/-! Both agents busy: each moves by its own micro-operations alone, so both come to rest, each as if it ran alone, whatever
the interleaving (`60_exceptions.md` R156, `70_reset_and_hazards.md` R181; log 3). -/

namespace Sys2Proof.Machine

open Sys2Proof.Claims

/-- A good state stays good along a run. -/
theorem BlockInv.runSteps {k : Nat} {s t : State} (hi : BlockInv s) (h : runSteps k s = .next t) : BlockInv t := by
  induction k generalizing s with
  | zero => cases h; exact hi
  | succ k ih =>
    cases hs : Machine.step s with
    | next u => exact ih (hi.step hs) ((runSteps_succ hs).symm.trans h)
    | fault f => simp [Machine.runSteps, hs] at h
    | refused r => simp [Machine.runSteps, hs] at h

theorem BlockInv.indexFits {s : State} (hi : BlockInv s) : IndexFits s := (encInv_iff.mp hi.1).1

/-- How many drive events of its frame a busy ENC has left (R103). -/
def encStepsLeft (s : State) : Nat := 2 * s.eNbits + 4 - eventsDone s

theorem encStepsLeft_pos (s : State) : 0 < encStepsLeft s := Nat.sub_pos_of_lt (eventsDone_lt s)

theorem encStepsLeft_le {s : State} (hn : s.eNbits ≤ 32) : encStepsLeft s ≤ 68 := by
  unfold encStepsLeft; omega

theorem decStepsLeft_le (s : State) : decStepsLeft s ≤ 67 := by
  unfold decStepsLeft
  split <;> omega

/-- Both agents run, and no command is issued. -/
def BothBusy (s : State) : Prop := s.cmd = [] ∧ s.ePhase ≠ .idle ∧ s.dPhase ≠ .idle

/-- `t` is at rest with what each agent running alone from `s` would leave: ENC's frame sent, and `Decode(RAW)` in the result
registers. -/
def EndsAsIfAlone (s t : State) : Prop :=
  endOfRun t ∧ sameEncoder (frameSent t.turn t.tick s) t ∧ resultOf t = some (decodeFrame s.matchDur s.raw) ∧
    t.raw = s.raw

/-- How many micro-operations the two busy agents have left together at most. -/
def stepsLeft (s : State) : Nat := encStepsLeft s + decStepsLeft s

/-- From `s` to `u` one agent has come to rest and the other ends the run alone, or both go on with fewer micro-operations left
and the same end to reach. -/
def BothMove (s u : State) : Prop :=
  (∃ k t, k < stepsLeft s ∧ runSteps k u = .next t ∧ EndsAsIfAlone s t) ∨
    (BothBusy u ∧ stepsLeft u < stepsLeft s ∧ ∀ t, EndsAsIfAlone u t → EndsAsIfAlone s t)

section
variable {i : Instr} {s u t : State}

/-- The frame that is left is ENC's own: nothing outside ENC has a part in it. -/
theorem sameEncoder_frameSent (turn : Agent) (tick : Nat) (h : sameEncoder s u) :
    sameEncoder (frameSent turn tick s) (frameSent turn tick u) := by
  obtain ⟨hp, hn, hv, hx, hc, htx⟩ := h
  simp [sameEncoder, frameSent, eventsDone, hp, hn, hv, hx, htx]

/-- A micro-operation of ENC comes to rest with the frame sent, or leaves the same frame with one event less to send (R99). -/
theorem exec_encOp_frameSent (hf : IndexFits s) (hc : s.cmd = []) (hop : encOp s.ePhase = some i)
    (h : exec i (advance s) = .next u) :
    (∃ turn tick, u = frameSent turn tick s) ∨
      (u.ePhase ≠ .idle ∧ encStepsLeft u < encStepsLeft s ∧ ∀ turn tick, frameSent turn tick u = frameSent turn tick s) := by
  by_cases hu : u.ePhase = .idle
  · have hoff := (encOp_rests_iff (s := advance s) hop h).mp hu
    obtain rfl := encOp_of_off hoff hop
    cases h
    exact .inl ⟨_, _, frameSent_of_off hf hc hoff⟩
  · obtain ⟨k, d, p, j, hev, rfl, -, -, hdone⟩ := encOp_drives_next_event (s := advance s) hf hop h
    have hlt := eventsDone_lt s
    have hdone' : eventsDone { drive k d (advance s) with ePhase := p, eIdx := j } = eventsDone s + 1 := hdone hu
    refine .inr ⟨hu, ?_, fun turn tick => frameSent_drive hev hc hdone'⟩
    rw [encStepsLeft, encStepsLeft, hdone']
    exact Nat.sub_succ_lt_self _ _ hlt

theorem decStepsLeft_of_sameDecoder (h : sameDecoder s u) : decStepsLeft u = decStepsLeft s := by
  obtain ⟨hp, -, -, -, hI, -⟩ := h
  simp only [decStepsLeft, hp, hI]

theorem encStepsLeft_of_sameEncoder (h : sameEncoder s u) : encStepsLeft u = encStepsLeft s := by
  obtain ⟨hp, hn, -, hx, -, -⟩ := h
  simp only [encStepsLeft, eventsDone, hp, hn, hx]

/-- A step that keeps the frame to send, the buffer and the matcher keeps the end of the run. -/
theorem EndsAsIfAlone.of_step (hframe : ∀ turn tick, sameEncoder (frameSent turn tick s) (frameSent turn tick u))
    (hraw : u.raw = s.raw) (hmt : u.matcher = s.matcher) (h : EndsAsIfAlone u t) : EndsAsIfAlone s t := by
  obtain ⟨hend, hsent, hres, hraw'⟩ := h
  have hmd : u.matchDur = s.matchDur := congrArg matchWith hmt
  rw [hmd, hraw] at hres
  exact ⟨hend, sameEncoder_trans (hframe _ _) hsent, hres, hraw'.trans hraw⟩

/-- Once ENC has sent its frame, DEC runs alone (R129). -/
theorem exists_run_of_frameSent {turn : Agent} {tick : Nat} (hi : DecoderInv (frameSent turn tick s)) (hc : s.cmd = [])
    (hd : s.dPhase ≠ .idle) : ∃ t, runSteps (decStepsLeft s) (frameSent turn tick s) = .next t ∧ EndsAsIfAlone s t := by
  obtain ⟨t, hrun, hend, hres, hsame, hraw, -⟩ := runSteps_dec (m := decStepsLeft s) hi hc rfl hd le_rfl
  exact ⟨t, hrun, hend, hsame, hres, hraw⟩

/-- Once DEC has its result, ENC runs alone (R98). -/
theorem exists_run_of_result (hf : IndexFits u) (hc : u.cmd = []) (he : u.ePhase ≠ .idle) (hd : u.dPhase = .idle)
    (hsame : sameEncoder s u) (hres : resultOf u = some (decodeFrame s.matchDur s.raw)) (hraw : u.raw = s.raw) :
    ∃ t, runSteps (encStepsLeft s) u = .next t ∧ EndsAsIfAlone s t := by
  rw [← encStepsLeft_of_sameEncoder hsame]
  obtain ⟨turn, tick, hrun⟩ := runSteps_enc hf hc hd he (Nat.add_sub_of_le (eventsDone_lt u).le)
  exact ⟨_, hrun, ⟨hc, rfl, hd⟩, sameEncoder_frameSent turn tick hsame, hres, hraw⟩

/-- A micro-operation of ENC leaves DEC's pass as it was (R156). -/
theorem bothMove_exec_encOp (hi : BlockInv s) (hu : BlockInv u) (hb : BothBusy s) (hop : encOp s.ePhase = some i)
    (h : exec i (advance s) = .next u) : BothMove s u := by
  obtain ⟨hc, -, hd⟩ := hb
  obtain ⟨hdec, hraw, hcmd, hmt, -⟩ := exec_enc_frame (encOp_agent hop) h
  obtain ⟨turn, tick, rfl⟩ | ⟨hbusy, hlt, hframe⟩ := exec_encOp_frameSent hi.indexFits hc hop h
  · obtain ⟨t, hrun, hend⟩ := exists_run_of_frameSent (blockInv_iff.mp hu).2 hc hd
    exact .inl ⟨_, t, Nat.lt_add_of_pos_left (encStepsLeft_pos s), hrun, hend⟩
  · have hleft : decStepsLeft u = decStepsLeft s := decStepsLeft_of_sameDecoder hdec
    refine .inr ⟨⟨by simp [hcmd, hc], hbusy, hdec.1.trans_ne hd⟩, by simp only [stepsLeft]; omega, fun t => ?_⟩
    exact .of_step (fun a c => by rw [hframe a c]; simp [sameEncoder]) hraw hmt

/-- A micro-operation of DEC leaves ENC's frame as it was (R156). -/
theorem bothMove_exec_decOp (hi : BlockInv s) (hu : BlockInv u) (hb : BothBusy s) (hop : decOp s.dPhase = some i)
    (h : exec i (advance s) = .next u) : BothMove s u := by
  obtain ⟨hc, he, hd⟩ := hb
  obtain ⟨-, hdec, -⟩ := hi
  obtain ⟨henc, hraw, hcmd, hmt, -⟩ := exec_dec_frame (decOp_agent hop) h
  have hcu : u.cmd = [] := by simp [hcmd, hc]
  have heu : u.ePhase ≠ .idle := henc.1.trans_ne he
  obtain ⟨hrest, hres⟩ | ⟨hbusy, hlt⟩ := passMoves_exec_decOp (s := advance s) hdec hop h
  · obtain ⟨t, hrun, hend⟩ := exists_run_of_result hu.indexFits hcu heu hrest henc hres hraw
    exact .inl ⟨_, t, Nat.lt_add_of_pos_right (decStepsLeft_pos hdec hd), hrun, hend⟩
  · have hleft : encStepsLeft u = encStepsLeft s := encStepsLeft_of_sameEncoder henc
    refine .inr ⟨⟨hcu, heu, hbusy⟩, Nat.add_lt_add_of_le_of_lt hleft.le hlt, fun t => ?_⟩
    exact .of_step (fun a c => sameEncoder_frameSent a c henc) hraw hmt

/-- Whichever agent takes the step of two busy ones. -/
theorem bothMove_step (hi : BlockInv s) (hb : BothBusy s) (h : step s = .next u) : BothMove s u := by
  obtain ⟨w, ws, hcmd, -⟩ | ⟨i, -, hop, hexec⟩ | ⟨i, -, hop, hexec⟩ | ⟨-, hidle, -⟩ := step_cases h
  · exact absurd (hb.1.symm.trans hcmd) (by simp)
  · exact bothMove_exec_encOp hi (hi.step h) hb hop hexec
  · exact bothMove_exec_decOp hi (hi.step h) hb hop hexec
  · exact absurd hidle hb.2.1

end

/-- Two busy agents come to rest within the micro-operations they have left together, each as if it ran alone (R156, R181). -/
theorem exists_run_endsAsIfAlone {m : Nat} {s : State} (hi : BlockInv s) (hb : BothBusy s) (hm : stepsLeft s ≤ m) :
    ∃ k t, k ≤ m ∧ runSteps k s = .next t ∧ EndsAsIfAlone s t := by
  induction m generalizing s with
  | zero => exact absurd hm (Nat.not_le.mpr (Nat.add_pos_left (encStepsLeft_pos s) _))
  | succ m ih =>
    obtain ⟨u, hstep⟩ := Proofs.goodStatesNeverStop s hi (by simp [hb.1])
    suffices hrun : ∃ k t, k ≤ m ∧ runSteps k u = .next t ∧ EndsAsIfAlone s t by
      obtain ⟨k, t, hk, hrun, hend⟩ := hrun
      exact ⟨k + 1, t, Nat.succ_le_succ hk, (runSteps_succ hstep).trans hrun, hend⟩
    obtain ⟨k, t, hk, hrun, hend⟩ | ⟨hbusy, hlt, hback⟩ := bothMove_step hi hb hstep
    · exact ⟨k, t, by omega, hrun, hend⟩
    · obtain ⟨k, t, hk, hrun, hend⟩ := ih (hi.step hstep) hbusy (by omega)
      exact ⟨k, t, hk, hrun, hback t hend⟩

end Sys2Proof.Machine
end

section
/-! The statements of the family of `60_exceptions.md`, settled. -/

namespace Sys2Proof.Proofs

open Sys2Proof.Machine Sys2Proof.Claims

/-- Settles O49: a step of one agent leaves the other's run as it was, and ENC has at most 68 steps left, DEC at most 67. -/
theorem concurrentCommandsEndAsIfAlone : Obligations.ConcurrentCommandsEndAsIfAlone := by
  unfold Obligations.ConcurrentCommandsEndAsIfAlone
  intro s hi hc he hd
  obtain ⟨⟨-, hn, -⟩, -⟩ := blockInv_iff.mp hi
  have hbound : stepsLeft s ≤ 135 := Nat.add_le_add (encStepsLeft_le hn) (decStepsLeft_le s)
  obtain ⟨k, t, hk, hrun, hend, ⟨-, -, -, -, hcar, htx⟩, hres, hraw⟩ :=
    exists_run_endsAsIfAlone hi ⟨hc, he, hd⟩ hbound
  exact ⟨k, t, hk, hrun, hend, hi.runSteps hrun, htx, hcar, hres, hraw⟩

/-- Settles O60: it has ended in a rejection of `s`, in which only `D.LEN` has written its count before. -/
theorem rejectionChangesOnlyTheResult : Obligations.RejectionChangesOnlyTheResult := by
  unfold Obligations.RejectionChangesOnlyTheResult
  intro i s t hi h hd hr
  obtain ⟨kind, rfl⟩ := rejectedBy_of_rests hi h hd hr
  exact ⟨rfl, errCode_ne_zero kind, fun hlen => if_neg hlen, fun hlen => if_pos hlen⟩

/-- Settles O39: each clause fails the check it names and passes those before it. -/
theorem rejectionsFollowTheStepOrder : Obligations.RejectionsFollowTheStepOrder := by
  unfold Obligations.RejectionsFollowTheStepOrder
  refine fun mt raw => ⟨decodeFrame_of_short, decodeFrame_headerMark, decodeFrame_unsupportedLength,
    fun hn h1 h2 => ?_, fun k hk hn h1 h2 hbit => ?_⟩
  · exact decodeFrame_headerSpace (three_le_of_supported hn) h1 hn h2
  · exact decodeFrame_bitMismatch (three_le_of_supported hn) h1 hn h2 (classifyAll_none hk (classifyPos_eq_none hbit))

end Sys2Proof.Proofs
end

section
/-! The statements of the family of `70_reset_and_hazards.md`, settled. -/

namespace Sys2Proof.Proofs

open Sys2Proof.Machine Sys2Proof.Claims

/-- Settles O2: each register R39 gives a value has that of `State.reset` (O1); the buffer and the matcher are `s`'s. -/
theorem resetInputAbandonsWhatRuns : Obligations.ResetInputAbandonsWhatRuns := by
  unfold Obligations.ResetInputAbandonsWhatRuns
  intro s
  obtain ⟨he, hd, hcar, hst, herr, hcount, hval, hproto, htx⟩ := resetLeavesTheSpecValues
  have hcmd : (inputReset s).cmd = [] := rfl
  exact ⟨he, hd, hcar, hst, herr, hcount, hval, hproto, htx, hcmd, inputReset_raw s, inputReset_matcher s⟩

/-- Settles O11: a block at rest fetches nothing (`fetch_idle`). -/
theorem idleBlockWaits : Obligations.IdleBlockWaits := by
  unfold Obligations.IdleBlockWaits
  exact fun _ hrest => step_rest hrest

end Sys2Proof.Proofs
end
